-- ==== Sys2Proof/Word.lean ====
section
/-! DEFINITION. The word types of the block: bytes, frames, times, numbers and ids, with the widths the spec gives them
(00_scope.md R12 to R44, 30_encoding.md R130). -/

namespace Sys2Proof

/-- 8 bits (R37). -/
abbrev Byte := BitVec 8

/-- A frame `F[0..7]`: `FRAME_SIZE` = 8 bytes, `F[0]` first on the wire (R12, R39). -/
abbrev Frame := Vector Byte 8

/-- A `TIME_BITS` = 32 bit count of milliseconds (R27, R44). -/
abbrev Time := BitVec 32

/-- Wall-clock time: `some s` seconds, or `none` for the spec's `Unknown` (R42, R44, R68). -/
abbrev Wall := Option Nat

/-- A 16-bit sequence number; 0 means "unknown" (R18). -/
abbrev SeqNo := BitVec 16

/-- A battery level: 0 to 100 percent, 127 for "unknown" (R19, R64). -/
abbrev Battery := BitVec 7

/-- A mailbox id: 1 to 15; 0 is reserved and is never a registry key (R13, R17). -/
abbrev MailboxId := BitVec 4

/-- A mailbox's label: opaque bytes (R62). -/
abbrev Label := List Byte

end Sys2Proof
end

