-- ==== Sys2Proof/Syntax.lean ====
section
/-! DEFINITION. The operations of the block and their operands: one constructor of `Instr` per row of spec/opcode_table.json
(30_encoding.md R150, R145), and the request port on which the environment presents an operation (10_state.md R80, R84). -/

namespace Sys2Proof

/-- The record the codec encodes from and decodes to (40_codec.md R183). -/
structure Fields where
  raddr : BitVec 4
  id : MailboxId
  boot : Bool
  online : Bool
  door : Bool
  seq : SeqNo
  uptime : BitVec 16
  battery : Battery
  deriving DecidableEq, Repr

/-- Every bit of a frame under its field's name, in wire order (30_encoding.md R130). -/
structure FrameBits where
  ver : BitVec 4
  raddr : BitVec 4
  id : MailboxId
  boot : Bool
  online : Bool
  door : Bool
  rsv1 : Bool
  seq : SeqNo
  uptime : BitVec 16
  battery : Battery
  rsv2 : Bool
  cksum : Byte
  deriving DecidableEq, Repr

/-- The field names `GETF` and `SETF` take (40_codec.md R179). -/
inductive FieldName where
  | ver | raddr | id | boot | online | door | rsv1 | seq | uptime | battery | rsv2 | cksum
  deriving DecidableEq, Repr

/-- A field's name with a value of that field's width: what `GETF` returns and what `SETF` inserts ("v must fit the field's
width (a model types it so)", 40_codec.md R180). -/
inductive FieldValue where
  | ver (v : BitVec 4)
  | raddr (v : BitVec 4)
  | id (v : MailboxId)
  | boot (v : Bool)
  | online (v : Bool)
  | door (v : Bool)
  | rsv1 (v : Bool)
  | seq (v : SeqNo)
  | uptime (v : BitVec 16)
  | battery (v : Battery)
  | rsv2 (v : Bool)
  | cksum (v : Byte)
  deriving DecidableEq, Repr

/-- The three frame classes (30_encoding.md R145). -/
inductive FrameClass where
  | boot | opened | closed
  deriving DecidableEq, Repr

/-- The store's answer to one probe of `REG_LOAD` (44_registry.md R324, R325). -/
inductive ProbeAnswer where
  | noRecord
  | record (label : Label) (lastSeen : Wall) (battery : Battery)
  | malformed
  deriving DecidableEq, Repr

/-- Whom `REG_ACK` acknowledges (44_registry.md R316). -/
inductive AckTarget where
  | one (id : MailboxId)
  | all
  deriving DecidableEq, Repr

/-- The operand fields of a frame word whose class is fixed: every bit but `boot` and `door` (R147). -/
structure FrameOperands where
  ver : BitVec 4
  raddr : BitVec 4
  id : MailboxId
  online : Bool
  rsv1 : Bool
  seq : SeqNo
  uptime : BitVec 16
  battery : Battery
  rsv2 : Bool
  cksum : Byte
  deriving DecidableEq, Repr

/-- What the environment supplies with a frame that is dispatched: the clocks (R83) and, for each of the two record writes a
dispatch can make, whether the store FAILS it (10_state.md R87, 60_exceptions.md R349; log 9). -/
structure DispatchEnv where
  now : Time
  wall : Wall
  createFails : Bool
  applyFails : Bool
  deriving DecidableEq, Repr

/-- The operations of the block: the 33 rows of 30_encoding.md R150 and the three frame classes of R145.
A `fails` operand is the persistence port's answer to the write or removal the operation makes (R87, R349; log 9). -/
inductive Instr where
  /-- `ENCODE` (R171). -/
  | codecEncode (f : Fields)
  /-- `DECODE` (R172). -/
  | codecDecode (F : Frame)
  /-- `CHECKSUM` (R173). -/
  | checksum (F : Frame)
  /-- `CHECKSUM_OK` (R174). -/
  | checksumOk (F : Frame)
  /-- `VERSION_OK` (R175). -/
  | versionOk (F : Frame)
  /-- `NEXT_SEQ` (R177). -/
  | nextSeq (c : SeqNo)
  /-- `GETF` (R179). -/
  | getf (F : Frame) (name : FieldName)
  /-- `SETF` (R180): the value carries the field's name. -/
  | setf (F : Frame) (v : FieldValue)
  /-- `RX_BYTE` (R203). -/
  | rxByte (b : Byte) (now : Time)
  /-- `RX_TICK` (R209). -/
  | rxTick (now : Time)
  /-- `RX_SERVICE` (R210). -/
  | rxService (bytes : List Byte) (now : Time)
  /-- `MSG_AVAIL` (R211). -/
  | msgAvail
  /-- `TAKE_MSG` (R212). -/
  | takeMsg (rearm : Bool)
  /-- `RX_ARM` (R213). -/
  | rxArm
  /-- `TX_SEND` (R232). -/
  | txSend (online door : Bool) (now : Time)
  /-- `TX_SLEEP` (R235). -/
  | txSleep (now : Time)
  /-- `TX_WAKEUP` (R236). -/
  | txWakeup (now : Time)
  /-- `BATT_SAMPLE` (R244). -/
  | battSample (raw : Int)
  /-- `RET_SAVE` (R246). -/
  | retSave
  /-- `MB_APPLY` (R262). -/
  | mbApply (f : Fields) (now : Time) (wall : Wall) (fails : Bool)
  /-- `MB_PEND_FIRE` (R290). -/
  | mbPendFire (i : MailboxId) (now : Time)
  /-- `MB_HEALTH` (R294). -/
  | mbHealth (i : MailboxId) (wall : Wall)
  /-- `MB_ACK` (R300). -/
  | mbAck (i : MailboxId)
  /-- `MB_RELIABILITY` (R302). -/
  | mbReliability (i : MailboxId)
  /-- `REG_LOOKUP_OR_CREATE` (R312). -/
  | regLookupOrCreate (id : MailboxId) (fails : Bool)
  /-- `REG_DELETE` (R313). -/
  | regDelete (id : MailboxId) (fails : Bool)
  /-- `REG_DISPATCH` (R314). -/
  | regDispatch (f : Fields) (env : DispatchEnv)
  /-- `REG_RECOMPUTE` (R315). -/
  | regRecompute
  /-- `REG_ACK` (R316); the actor is opaque (R317). -/
  | regAck (actor : List Byte) (target : AckTarget)
  /-- `REG_ROLLCALL` (R318). -/
  | regRollcall (wall : Wall)
  /-- `REG_TIMERS` (R320). -/
  | regTimers (now : Time)
  /-- `REG_ENUM` (R322). -/
  | regEnum
  /-- `REG_LOAD` (R324): the answers for ids 1 to 15, in that order. -/
  | regLoad (probe : Vector ProbeAnswer 15)
  /-- `FRM.BOOT` (R281): `boot` = 1, `door` any. -/
  | frmBoot (o : FrameOperands) (door : Bool) (env : DispatchEnv)
  /-- `FRM.OPEN` (R282): `boot` = 0, `door` = 1. -/
  | frmOpen (o : FrameOperands) (env : DispatchEnv)
  /-- `FRM.CLOSED` (R283): `boot` = 0, `door` = 0. -/
  | frmClosed (o : FrameOperands) (env : DispatchEnv)
  deriving DecidableEq, Repr

/-- The typed operand inputs of the block's abstract interface (10_state.md R80 to R89). "Operands are typed values, not bit
fields" (opcode_table.json); an operation reads the inputs its rule names and no other. DESIGN CHOICE (log 1). -/
structure Operands where
  fields : Fields
  frame : Frame
  name : FieldName
  value : FieldValue
  seq : SeqNo
  byte : Byte
  bytes : List Byte
  now : Time
  wall : Wall
  online : Bool
  door : Bool
  rearm : Bool
  raw : Int
  id : MailboxId
  actor : List Byte
  target : AckTarget
  probe : Vector ProbeAnswer 15
  createFails : Bool
  fails : Bool
  deriving DecidableEq, Repr

/-- What the environment presents: a word, which is one command byte (R151) or the eight bytes of a frame in wire order (R39,
R130), and the operand inputs that go with it (R84). -/
structure Request where
  word : List Byte
  operands : Operands
  deriving DecidableEq, Repr

end Sys2Proof
end

