-- ==== Sys2Proof/Machine/Operands.lean ====
section
/-! DEFINITION. The operand forms: the fields of a frame and their positions (30_encoding.md R130 to R149), the field
accessors, the frame word, the frame classes, and the selection of a slot by its id (20_memory.md R102, R126). -/

namespace Sys2Proof

/-- One bit as a one-bit value. -/
def bit (b : Bool) : BitVec 1 := BitVec.ofBool b

/-- Extraction of every field (R132 to R143): the positions of R130. -/
def Frame.bits (F : Frame) : FrameBits where
  ver := F[0].extractLsb' 4 4
  raddr := F[0].extractLsb' 0 4
  id := F[1].extractLsb' 4 4
  boot := F[1].getLsbD 3
  online := F[1].getLsbD 2
  door := F[1].getLsbD 1
  rsv1 := F[1].getLsbD 0
  seq := F[2] ++ F[3]
  uptime := F[4] ++ F[5]
  battery := F[6].extractLsb' 1 7
  rsv2 := F[6].getLsbD 0
  cksum := F[7]

/-- The eight bytes that hold the given fields (R130, R132 to R143): each byte's fields from its most significant bit down,
16-bit fields high byte first (20_memory.md R107, R109). -/
def FrameBits.toFrame (b : FrameBits) : Frame :=
  #v[b.ver ++ b.raddr,
     b.id ++ bit b.boot ++ bit b.online ++ bit b.door ++ bit b.rsv1,
     b.seq.extractLsb' 8 8, b.seq.extractLsb' 0 8,
     b.uptime.extractLsb' 8 8, b.uptime.extractLsb' 0 8,
     b.battery ++ bit b.rsv2,
     b.cksum]

/-- The value of the named field (40_codec.md R179). -/
def FrameBits.get (b : FrameBits) : FieldName → FieldValue
  | .ver => .ver b.ver
  | .raddr => .raddr b.raddr
  | .id => .id b.id
  | .boot => .boot b.boot
  | .online => .online b.online
  | .door => .door b.door
  | .rsv1 => .rsv1 b.rsv1
  | .seq => .seq b.seq
  | .uptime => .uptime b.uptime
  | .battery => .battery b.battery
  | .rsv2 => .rsv2 b.rsv2
  | .cksum => .cksum b.cksum

/-- The fields with one of them replaced (40_codec.md R180). -/
def FrameBits.put (b : FrameBits) : FieldValue → FrameBits
  | .ver v => { b with ver := v }
  | .raddr v => { b with raddr := v }
  | .id v => { b with id := v }
  | .boot v => { b with boot := v }
  | .online v => { b with online := v }
  | .door v => { b with door := v }
  | .rsv1 v => { b with rsv1 := v }
  | .seq v => { b with seq := v }
  | .uptime v => { b with uptime := v }
  | .battery v => { b with battery := v }
  | .rsv2 v => { b with rsv2 := v }
  | .cksum v => { b with cksum := v }

/-- The name a field value carries. -/
def FieldValue.fieldName : FieldValue → FieldName
  | .ver _ => .ver
  | .raddr _ => .raddr
  | .id _ => .id
  | .boot _ => .boot
  | .online _ => .online
  | .door _ => .door
  | .rsv1 _ => .rsv1
  | .seq _ => .seq
  | .uptime _ => .uptime
  | .battery _ => .battery
  | .rsv2 _ => .rsv2
  | .cksum _ => .cksum

/-- The XOR of the first seven bytes (30_encoding.md R143, 40_codec.md R173). -/
def frameChecksum (F : Frame) : Byte :=
  F[0] ^^^ F[1] ^^^ F[2] ^^^ F[3] ^^^ F[4] ^^^ F[5] ^^^ F[6]

/-- Whether the eighth byte is that XOR (40_codec.md R174). -/
def frameChecksumOk (F : Frame) : Bool := frameChecksum F == F[7]

/-- Whether the version field is the supported version (40_codec.md R175). -/
def frameVersionOk (version : BitVec 4) (F : Frame) : Bool := F.bits.ver == version

/-- The members of `Fields` as a frame's bits spell them, with no test (40_codec.md R172). -/
def Frame.fields (F : Frame) : Fields where
  raddr := F.bits.raddr
  id := F.bits.id
  boot := F.bits.boot
  online := F.bits.online
  door := F.bits.door
  seq := F.bits.seq
  uptime := F.bits.uptime
  battery := F.bits.battery

/-- A frame's bits made of the codec's fields, the version, reserved bits 0 and the given checksum (40_codec.md R171). -/
def Fields.bits (version : BitVec 4) (f : Fields) (cksum : Byte) : FrameBits where
  ver := version
  raddr := f.raddr
  id := f.id
  boot := f.boot
  online := f.online
  door := f.door
  rsv1 := false
  seq := f.seq
  uptime := f.uptime
  battery := f.battery
  rsv2 := false
  cksum := cksum

/-- `ENCODE`'s frame (40_codec.md R171): the checksum does not read its own byte, so it is taken over the frame with that byte 0. -/
def encodeFields (version : BitVec 4) (f : Fields) : Frame :=
  (f.bits version (frameChecksum (f.bits version 0).toFrame)).toFrame

/-- The class a frame's boot and door flags select (30_encoding.md R145). -/
def frameClass (boot door : Bool) : FrameClass :=
  if boot then .boot else if door then .opened else .closed

/-- A frame's bits with the class bits put back among the operand bits (R147). -/
def FrameOperands.bits (o : FrameOperands) (boot door : Bool) : FrameBits where
  ver := o.ver
  raddr := o.raddr
  id := o.id
  boot := boot
  online := o.online
  door := door
  rsv1 := o.rsv1
  seq := o.seq
  uptime := o.uptime
  battery := o.battery
  rsv2 := o.rsv2
  cksum := o.cksum

/-- A frame's bits without the class bits (R147). -/
def FrameBits.operands (b : FrameBits) : FrameOperands where
  ver := b.ver
  raddr := b.raddr
  id := b.id
  online := b.online
  rsv1 := b.rsv1
  seq := b.seq
  uptime := b.uptime
  battery := b.battery
  rsv2 := b.rsv2
  cksum := b.cksum

/-- The 64-bit frame word `W` of a frame, `W[63:56] = F[0]` (00_scope.md R39). -/
def Frame.word (F : Frame) : BitVec 64 :=
  F[0] ++ F[1] ++ F[2] ++ F[3] ++ F[4] ++ F[5] ++ F[6] ++ F[7]

/-- The frame of a 64-bit frame word (R39). -/
def frameOfWord (w : BitVec 64) : Frame :=
  #v[w.extractLsb' 56 8, w.extractLsb' 48 8, w.extractLsb' 40 8, w.extractLsb' 32 8,
     w.extractLsb' 24 8, w.extractLsb' 16 8, w.extractLsb' 8 8, w.extractLsb' 0 8]

/-- The ids of the 15 slots, ascending (20_memory.md R102). -/
def allIds : List MailboxId := [1, 2, 3, 4, 5, 6, 7, 8, 9, 10, 11, 12, 13, 14, 15]

/-- A probe's answer as `REG_LOAD` takes it: "label over `LABEL_MAX` ... is malformed" (44_registry.md R325, D44; log 19). -/
def ProbeAnswer.checked (labelMax : Nat) : ProbeAnswer → ProbeAnswer
  | .noRecord => .noRecord
  | .malformed => .malformed
  | .record label lastSeen battery =>
    if label.length ≤ labelMax then .record label lastSeen battery else .malformed

end Sys2Proof
end

