-- ==== Sys2Proof/Config.lean ====
section
/-! DEFINITION. What an instance of the block fixes once (00_scope.md R12 to R36), and the values the spec leaves
unspecified, as constants with no body. -/

namespace Sys2Proof

/-- The parameters of an instance (00_scope.md section 4): constants, never written by an operation (R50, R79).
`FRAME_SIZE`, `MAX_MAILBOXES`, `TIME_BITS` and `CNT_BITS` are fixed by the spec and are part of the types. -/
structure Config where
  /-- `PROTO_VERSION` (R14). -/
  protoVersion : BitVec 4
  /-- `OWN_ADDR` (R15). -/
  ownAddr : BitVec 4
  /-- `RX_TIMEOUT_MS` (R20). -/
  rxTimeoutMs : Nat
  /-- `LOSS_SANITY_MAX` (R21). -/
  lossSanityMax : Nat
  /-- `BOUNCE_MS` (R22). -/
  bounceMs : Nat
  /-- `PENDING_TIMEOUT_MS` (R23). -/
  pendingTimeoutMs : Nat
  /-- `ABSENCE_WINDOW_S` (R24). -/
  absenceWindowS : Nat
  /-- `BATT_LOW_PCT` (R25). -/
  battLowPct : Nat
  /-- `ROLLCALL_PERIOD` (R26): a positive duration, which no rule reads. -/
  rollcallPeriod : Nat
  /-- `TX_RADDR` (R29). -/
  txRaddr : BitVec 4
  /-- `TX_MBOX_ID` (R30). -/
  txMboxId : MailboxId
  /-- `TX_SETTLE_MS` (R31). -/
  txSettleMs : Nat
  /-- `SLEEP_SETTLE_MS` (R31). -/
  sleepSettleMs : Nat
  /-- `WAKE_SETTLE_MS` (R31). -/
  wakeSettleMs : Nat
  /-- `ADC_MIN` (R32). -/
  adcMin : Int
  /-- `ADC_MAX` (R32). -/
  adcMax : Int
  /-- `EMA_DIV` (R33). -/
  emaDiv : Nat
  /-- `LABEL_MAX` (R34). -/
  labelMax : Nat
  /-- The link rate (R35): no rule reads it. -/
  linkRate : Nat
  /-- The RF channel (R35): no rule reads it. -/
  rfChannel : Nat
  deriving DecidableEq, Repr

/-- The reference configuration CFG0 of 00_scope.md section 4 (R14 to R34; D2). The three entries the spec gives no value
are read by no rule: `rollcallPeriod`, which R26 calls positive, stands at 1, `linkRate` and `rfChannel` at 0. DESIGN CHOICE
(log 4). -/
def cfg0 : Config where
  protoVersion := 1
  ownAddr := 1
  rxTimeoutMs := 500
  lossSanityMax := 1000
  bounceMs := 1000
  pendingTimeoutMs := 60000
  absenceWindowS := 259200
  battLowPct := 20
  rollcallPeriod := 1
  txRaddr := 1
  txMboxId := 3
  txSettleMs := 40
  sleepSettleMs := 40
  wakeSettleMs := 250
  adcMin := 500
  adcMax := 1000
  emaDiv := 5
  labelMax := 32
  linkRate := 0
  rfChannel := 0

/-- `BATT_UNKNOWN` (R19). -/
def battUnknown : Battery := 127#7

/-- `BROADCAST_ADDR` (R16). -/
def broadcastAddr : BitVec 4 := 0#4

/-- What a slot's `pend_t0` holds when the slot becomes valid: "unspecified" (R70, R382, U8). A free value, one per draw;
DESIGN CHOICE (log 10). -/
opaque Config.freePendT0 : Nat → Time

/-- What `rx_buf` holds after a receiver node start: "unspecified" (R381, U7). A free value (log 11). -/
opaque Config.freeRxBuf : Nat → Frame

/-- What `rx_t0` holds after a receiver node start: "unspecified" (R381, U8). A free value (log 11). -/
opaque Config.freeRxT0 : Nat → Time

/-- What `tx_buf` holds after a sensor node start: "unspecified" (R383, U8). A free value (log 11). -/
opaque Config.freeTxBuf : Nat → Frame

/-- What `tx_busy_t0` holds after a sensor node start: "unspecified" (R383, U8). A free value (log 11). -/
opaque Config.freeTxBusyT0 : Nat → Time

/-- What `ret_seq` holds after a cold boot: "unspecified" (R77, R383, U12). A free value (log 11). -/
opaque Config.freeRetSeq : Nat → SeqNo

/-- What `ret_batt` holds after a cold boot: "unspecified" (R77, R383, U12). A free value (log 11). -/
opaque Config.freeRetBatt : Nat → Battery

end Sys2Proof
end

