-- ==== Sys2Proof/WellFormed.lean ====
section
/-! DEFINITION. Well-formed configurations (00_scope.md R36) and well-formed operations: the operand ranges the spec states
that the operand types do not already hold. An ill-formed operation still runs, with the outcome its rule gives; in
an ill-formed configuration nothing does (U22). -/

namespace Sys2Proof

/-- The constraints of R36, and the ranges of R20 to R26 that they do not repeat ("a configuration that breaks" them is "not a
configuration", U22). -/
def Config.wf (c : Config) : Bool :=
  [c.txMboxId != 0#4, decide (c.adcMin < c.adcMax), decide (1 ≤ c.emaDiv), decide (c.battLowPct ≤ 100),
    decide (0 < c.rxTimeoutMs), decide (c.rxTimeoutMs < 2 ^ 31),
    decide (0 < c.pendingTimeoutMs), decide (c.pendingTimeoutMs < 2 ^ 31),
    decide (c.lossSanityMax ≤ 65535), decide (c.bounceMs ≤ 65536), decide (0 < c.absenceWindowS),
    decide (0 < c.rollcallPeriod)].all id

/-- A probe answer as R325 lets the environment give it: a record's label has at most `LABEL_MAX` bytes. -/
def ProbeAnswer.fits (labelMax : Nat) : ProbeAnswer → Bool
  | .record label _ _ => decide (label.length ≤ labelMax)
  | .noRecord | .malformed => true

/-- The operand ranges of an operation: `MB_*` name a slot 1 to 15 (R260), `REG_ACK` names 1 to 15 or ALL (R316), `REG_LOAD`'s
records have labels that fit (R325). Every other operand's range is its type. -/
def Instr.wf (c : Config) : Instr → Bool
  | .codecEncode _ | .codecDecode _ | .checksum _ | .checksumOk _ | .versionOk _ | .nextSeq _ | .getf _ _ | .setf _ _ => true
  | .rxByte _ _ | .rxTick _ | .rxService _ _ | .msgAvail | .takeMsg _ | .rxArm => true
  | .txSend _ _ _ | .txSleep _ | .txWakeup _ | .battSample _ | .retSave => true
  | .mbApply f _ _ _ => f.id != 0#4
  | .mbPendFire i _ | .mbHealth i _ | .mbAck i | .mbReliability i => i != 0#4
  | .regLookupOrCreate _ _ | .regDelete _ _ | .regDispatch _ _ | .regRecompute => true
  | .regAck _ (.one i) => i != 0#4
  | .regAck _ .all => true
  | .regRollcall _ | .regTimers _ | .regEnum => true
  | .regLoad probe => probe.toList.all (ProbeAnswer.fits c.labelMax)
  | .frmBoot _ _ _ | .frmOpen _ _ | .frmClosed _ _ => true

end Sys2Proof
end

