-- ==== Sys2Proof/Decode.lean ====
section
/-! DEFINITION. From a request to an operation and back: the command codes of 30_encoding.md R151, the frame classes of R145,
and the encoder written from the same table. Decoding is total and rejects by name. -/

namespace Sys2Proof

/-- Why a request selects no operation. -/
inductive DecodeReject where
  /-- "Every other code is unassigned and selects no operation" (R151). -/
  | unassignedCode (code : Byte)
  /-- Neither one command byte nor the eight bytes of a frame (R144, R151). -/
  | badLength (bytes : Nat)
  deriving DecidableEq, Repr

/-- The operand inputs at zero: no bit, no byte, no record. -/
def Operands.zero : Operands where
  fields := ⟨0, 0, false, false, false, 0, 0, 0⟩
  frame := Vector.replicate 8 0
  name := .ver
  value := .ver 0
  seq := 0
  byte := 0
  bytes := []
  now := 0
  wall := none
  online := false
  door := false
  rearm := false
  raw := 0
  id := 0
  actor := []
  target := .one 0
  probe := Vector.replicate 15 .noRecord
  createFails := false
  fails := false

/-- The inputs that accompany a dispatch (R83, R87). -/
def Operands.env (o : Operands) : DispatchEnv := ⟨o.now, o.wall, o.createFails, o.fails⟩

/-- The operation a command code selects, with its operands (R151). -/
def decodeCommand (code : Byte) (o : Operands) : Option Instr :=
  match code.toNat with
  | 0x01 => some (.codecEncode o.fields)
  | 0x02 => some (.codecDecode o.frame)
  | 0x03 => some (.checksum o.frame)
  | 0x04 => some (.checksumOk o.frame)
  | 0x05 => some (.versionOk o.frame)
  | 0x06 => some (.nextSeq o.seq)
  | 0x07 => some (.getf o.frame o.name)
  | 0x08 => some (.setf o.frame o.value)
  | 0x10 => some (.rxByte o.byte o.now)
  | 0x11 => some (.rxTick o.now)
  | 0x12 => some (.rxService o.bytes o.now)
  | 0x13 => some .msgAvail
  | 0x14 => some (.takeMsg o.rearm)
  | 0x15 => some .rxArm
  | 0x20 => some (.txSend o.online o.door o.now)
  | 0x21 => some (.txSleep o.now)
  | 0x22 => some (.txWakeup o.now)
  | 0x23 => some (.battSample o.raw)
  | 0x24 => some .retSave
  | 0x30 => some (.mbApply o.fields o.now o.wall o.fails)
  | 0x31 => some (.mbPendFire o.id o.now)
  | 0x32 => some (.mbHealth o.id o.wall)
  | 0x33 => some (.mbAck o.id)
  | 0x34 => some (.mbReliability o.id)
  | 0x40 => some (.regLookupOrCreate o.id o.fails)
  | 0x41 => some (.regDelete o.id o.fails)
  | 0x42 => some (.regDispatch o.fields o.env)
  | 0x43 => some .regRecompute
  | 0x44 => some (.regAck o.actor o.target)
  | 0x45 => some (.regRollcall o.wall)
  | 0x46 => some (.regTimers o.now)
  | 0x47 => some .regEnum
  | 0x48 => some (.regLoad o.probe)
  | _ => none

/-- The frame-class operation of a frame's bits (R145), with the inputs that accompany its dispatch. Every frame has a class. -/
def decodeFrame (b : FrameBits) (env : DispatchEnv) : Instr :=
  match frameClass b.boot b.door with
  | .boot => .frmBoot b.operands b.door env
  | .opened => .frmOpen b.operands env
  | .closed => .frmClosed b.operands env

/-- The decoder, total on any bytes: one byte is a command code (R151), eight bytes are a frame (R130, R145), nothing else is
anything. -/
def decode (r : Request) : Except DecodeReject Instr :=
  match r.word with
  | [code] =>
    match decodeCommand code r.operands with
    | some i => .ok i
    | none => .error (.unassignedCode code)
  | [b0, b1, b2, b3, b4, b5, b6, b7] =>
    .ok (decodeFrame (Frame.bits #v[b0, b1, b2, b3, b4, b5, b6, b7]) r.operands.env)
  | word => .error (.badLength word.length)

/-- A command request: the code, and the operand inputs the operation reads; every other input at zero. -/
def commandRequest (code : Byte) (o : Operands) : Request := ⟨[code], o⟩

/-- The operand inputs that accompany a dispatch, every other input at zero. -/
def DispatchEnv.operands (e : DispatchEnv) : Operands :=
  { Operands.zero with now := e.now, wall := e.wall, createFails := e.createFails, fails := e.applyFails }

/-- A frame request: the eight bytes in wire order (R39), with the inputs that accompany its dispatch. -/
def frameRequest (b : FrameBits) (env : DispatchEnv) : Request := ⟨b.toFrame.toList, env.operands⟩

/-- The encoder: the request that presents an operation (R130, R151). -/
def encode : Instr → Request
  | .codecEncode f => commandRequest 0x01 { Operands.zero with fields := f }
  | .codecDecode F => commandRequest 0x02 { Operands.zero with frame := F }
  | .checksum F => commandRequest 0x03 { Operands.zero with frame := F }
  | .checksumOk F => commandRequest 0x04 { Operands.zero with frame := F }
  | .versionOk F => commandRequest 0x05 { Operands.zero with frame := F }
  | .nextSeq c => commandRequest 0x06 { Operands.zero with seq := c }
  | .getf F name => commandRequest 0x07 { Operands.zero with frame := F, name := name }
  | .setf F v => commandRequest 0x08 { Operands.zero with frame := F, value := v }
  | .rxByte b now => commandRequest 0x10 { Operands.zero with byte := b, now := now }
  | .rxTick now => commandRequest 0x11 { Operands.zero with now := now }
  | .rxService bytes now => commandRequest 0x12 { Operands.zero with bytes := bytes, now := now }
  | .msgAvail => commandRequest 0x13 Operands.zero
  | .takeMsg rearm => commandRequest 0x14 { Operands.zero with rearm := rearm }
  | .rxArm => commandRequest 0x15 Operands.zero
  | .txSend online door now => commandRequest 0x20 { Operands.zero with online := online, door := door, now := now }
  | .txSleep now => commandRequest 0x21 { Operands.zero with now := now }
  | .txWakeup now => commandRequest 0x22 { Operands.zero with now := now }
  | .battSample raw => commandRequest 0x23 { Operands.zero with raw := raw }
  | .retSave => commandRequest 0x24 Operands.zero
  | .mbApply f now wall fails =>
    commandRequest 0x30 { Operands.zero with fields := f, now := now, wall := wall, fails := fails }
  | .mbPendFire i now => commandRequest 0x31 { Operands.zero with id := i, now := now }
  | .mbHealth i wall => commandRequest 0x32 { Operands.zero with id := i, wall := wall }
  | .mbAck i => commandRequest 0x33 { Operands.zero with id := i }
  | .mbReliability i => commandRequest 0x34 { Operands.zero with id := i }
  | .regLookupOrCreate id fails => commandRequest 0x40 { Operands.zero with id := id, fails := fails }
  | .regDelete id fails => commandRequest 0x41 { Operands.zero with id := id, fails := fails }
  | .regDispatch f env => commandRequest 0x42 { env.operands with fields := f }
  | .regRecompute => commandRequest 0x43 Operands.zero
  | .regAck actor target => commandRequest 0x44 { Operands.zero with actor := actor, target := target }
  | .regRollcall wall => commandRequest 0x45 { Operands.zero with wall := wall }
  | .regTimers now => commandRequest 0x46 { Operands.zero with now := now }
  | .regEnum => commandRequest 0x47 Operands.zero
  | .regLoad probe => commandRequest 0x48 { Operands.zero with probe := probe }
  | .frmBoot o door env => frameRequest (o.bits true door) env
  | .frmOpen o env => frameRequest (o.bits false true) env
  | .frmClosed o env => frameRequest (o.bits false false) env

/-- The request a row's bits stand for, as opcode_table.json numbers them: an 8-bit row is a command byte, a longer one the
64-bit frame word `W` with `W[63:56]` the first byte (R39, R147; log 26). Every operand input is at zero. -/
def tableRequest (nbits w : Nat) : Request :=
  if nbits ≤ 8 then ⟨[BitVec.ofNat 8 w], Operands.zero⟩
  else ⟨(frameOfWord (BitVec.ofNat 64 w)).toList, Operands.zero⟩

/-- The operation the decoder reads from a row's bits. -/
def decodeTableWord (nbits w : Nat) : Option Instr :=
  (decode (tableRequest nbits w)).toOption

end Sys2Proof
end

