-- ==== Sys2Proof/Machine/State.lean ====
section
/-! DEFINITION. The state of the block (10_state.md R50 to R96), its outputs, the reasons an operation has no meaning, and the
state right after reset. -/

namespace Sys2Proof.Machine

/-- Alarm severities, lowest first (00_scope.md R43): `None` (0) to `DoorOpenNow` (6). -/
inductive Severity where
  | noAlarm | booted | lowBattery | absent | doorFlipped | doorLeftOpen | doorOpenNow
  deriving DecidableEq, Repr

/-- `rx_state` (10_state.md R55). -/
inductive RxState where
  | idle | assembling
  deriving DecidableEq, Repr

/-- The platform's reset-cause signal at a sensor node start (10_state.md R89). -/
inductive ResetCause where
  | wakeFromSleep | other
  deriving DecidableEq, Repr

/-- What a radio power command asks for (10_state.md R85, R88). -/
inductive RadioCommand where
  | sleep | wake
  deriving DecidableEq, Repr

/-- A valid mailbox slot `MB[i]` (10_state.md R61 to R72). Its id is its place in the slot file (R61). -/
structure Slot where
  /-- R62. -/
  label : Label
  /-- R63. -/
  boot : Bool
  /-- R63. -/
  online : Bool
  /-- R63. -/
  door : Bool
  /-- R64. -/
  battery : Battery
  /-- R65. -/
  seq : SeqNo
  /-- R66; an unbounded natural (U9, log 5). -/
  sent : Nat
  /-- R67; an unbounded natural (U9, log 5). -/
  received : Nat
  /-- R68. -/
  lastSeen : Wall
  /-- R69. -/
  alarm : Severity
  /-- R70. -/
  pendArmed : Bool
  /-- R70; meaningful only while `pendArmed`. -/
  pendT0 : Time
  /-- R71. -/
  battReported : Bool
  /-- R72. -/
  voiceReported : Bool
  deriving DecidableEq, Repr

/-- The nine conditions, each with the value it records (60_exceptions.md R340). -/
inductive Condition where
  /-- Raised by `RX_BYTE` on byte 0 (R341). -/
  | badVersion (byte0 : Byte)
  /-- Raised by `RX_BYTE` on byte 0 (R342). -/
  | badAddress (byte0 : Byte)
  /-- Raised by `RX_BYTE` on byte 7 (R343). -/
  | badChecksum (frame : Frame)
  /-- Raised by `RX_TICK` (R344): `rx_count` at expiry. -/
  | rxTimeout (count : Nat)
  /-- Raised by `MB_APPLY` (R345). -/
  | seqDesync (id : MailboxId) (lost : Nat)
  /-- Raised by `REG_LOOKUP_OR_CREATE` and `REG_DISPATCH` (R346). -/
  | invalidId (id : MailboxId)
  /-- Raised by any operation whose record write or removal the store fails (R349). -/
  | persistFail (id : MailboxId)
  /-- Raised by `REG_LOAD` (R347). -/
  | badRecord (id : MailboxId)
  /-- Raised by `MB_PEND_FIRE` (R350). -/
  | pendingTimeout (id : MailboxId)
  deriving DecidableEq, Repr

/-- The events of the output queue (10_state.md R85): the conditions, the sink calls, the store's and the radio's commands. -/
inductive Event where
  | condition (c : Condition)
  | notifyEvent (id : MailboxId) (elapsed : BitVec 16) (bounce : Bool)
  | notifyLostMessages (count : Nat)
  | notifyLowBattery (id : MailboxId)
  | notifyAbsent (id : MailboxId)
  | persistWrite (id : MailboxId) (label : Label) (lastSeen : Wall) (battery : Battery)
  | persistRemove (id : MailboxId)
  | radioPower (command : RadioCommand)
  deriving DecidableEq, Repr

/-- What `DECODE` returns (40_codec.md R172). -/
inductive DecodeResult where
  | ok (f : Fields)
  | versionMismatch
  | checksumMismatch
  deriving DecidableEq, Repr

/-- `ApplyResult` (43_mailbox_state.md R287). -/
structure ApplyResult where
  before : Severity
  after : Severity
  lost : Nat
  desync : Bool
  lostEvents : Nat
  bounce : Bool
  deriving DecidableEq, Repr

/-- What an operation returns to the environment (10_state.md R84), one constructor per result type of the operations' rules.
The model's own field (log 17). -/
inductive Result where
  /-- No operation has run since reset. -/
  | nothing
  /-- Done, with no value to return (`TX_SLEEP`, `TX_WAKEUP`, `BATT_SAMPLE`, `RET_SAVE`). -/
  | done
  /-- Held: the operation did not start (42_transmitter.md R238; log 8). -/
  | held
  /-- `ENCODE`, `SETF`, `TX_SEND`. -/
  | frame (F : Frame)
  /-- `DECODE`. -/
  | decoded (r : DecodeResult)
  /-- `CHECKSUM`. -/
  | byte (c : Byte)
  /-- `CHECKSUM_OK`, `VERSION_OK`, `MSG_AVAIL`, `MB_HEALTH`. -/
  | bool (b : Bool)
  /-- `NEXT_SEQ`. -/
  | seq (n : SeqNo)
  /-- `GETF`. -/
  | value (v : FieldValue)
  /-- `RX_BYTE`: the byte was taken. -/
  | accepted
  /-- `RX_BYTE`: the byte stays with the environment. -/
  | notListening
  /-- `RX_TICK`. -/
  | expired
  /-- `RX_TICK`. -/
  | notExpired
  /-- `RX_SERVICE`: the number of bytes consumed. -/
  | consumed (n : Nat)
  /-- `TAKE_MSG`: the frame's fields, or `Unknown`. -/
  | message (m : Option Fields)
  /-- `RX_ARM`. -/
  | armed
  /-- `RX_ARM` while a message is held. -/
  | armRefused
  /-- `MB_APPLY`. -/
  | applied (r : ApplyResult)
  /-- `MB_PEND_FIRE`. -/
  | fired
  /-- `MB_PEND_FIRE`. -/
  | notDue
  /-- `MB_ACK`, `REG_RECOMPUTE`, `REG_ACK`. -/
  | severity (a : Severity)
  /-- `MB_RELIABILITY`: whole percent, or `Unknown`. -/
  | percent (p : Option Nat)
  /-- `REG_LOOKUP_OR_CREATE`. -/
  | found
  /-- `REG_LOOKUP_OR_CREATE`. -/
  | created
  /-- `REG_LOOKUP_OR_CREATE`, `REG_DISPATCH` and the frame classes, given id 0. -/
  | rejected
  /-- `REG_DELETE`. -/
  | deleted
  /-- `REG_DELETE`. -/
  | notFound
  /-- `REG_DISPATCH` and the frame classes: whether the slot was created, and what the application did. -/
  | dispatched (created : Bool) (r : ApplyResult)
  /-- A frame class whose frame does not meet the acceptance conditions (30_encoding.md R148; log 7). -/
  | discarded
  /-- `REG_ROLLCALL`. -/
  | health (oks : List (MailboxId × Bool))
  /-- `REG_TIMERS`, `REG_LOAD`. -/
  | ids (is : List MailboxId)
  /-- `REG_ENUM`. -/
  | records (rs : List (MailboxId × Slot))
  deriving DecidableEq, Repr

/-- The receiver personality (10_state.md R50): FrameReceiver, the slot file and the registry's global alarm. -/
structure Receiver where
  /-- R52. -/
  rxBuf : Frame
  /-- R55. -/
  rxState : RxState
  /-- R56: 0 to 7 between operations. -/
  rxCount : Fin 8
  /-- R57; meaningful only while assembling. -/
  rxT0 : Time
  /-- R58. -/
  rxArmed : Bool
  /-- R59. -/
  rxMsgValid : Bool
  /-- `MB[1..15]` (R60): place `k` is slot `k + 1`; `none` is `valid` = 0 (log 14). -/
  slots : Vector (Option Slot) 15
  /-- R73. -/
  globalAlarm : Severity
  /-- The output event queue (R85), oldest first. -/
  events : List Event
  /-- The model's own: how many free values this instance has drawn (log 10, log 11). -/
  draws : Nat
  deriving DecidableEq, Repr

/-- The sensor personality (10_state.md R50): FrameTransmitter, the battery estimator and the retained memory. -/
structure Sensor where
  /-- R53. -/
  txBuf : Frame
  /-- R74. -/
  txSeq : SeqNo
  /-- R74; an unbounded natural (U9, log 5). -/
  txSent : Nat
  /-- R75. -/
  txBatt : Battery
  /-- R75. -/
  battFirstPending : Bool
  /-- R76; `none` is the spec's `Unknown`. -/
  radioAwake : Option Bool
  /-- R76. -/
  txBusyT0 : Time
  /-- R76. -/
  txBusyDur : Nat
  /-- R77. -/
  retSeq : SeqNo
  /-- R77. -/
  retBatt : Battery
  /-- R78: true is 1, a cold or other boot. -/
  bootFlag : Bool
  /-- The output event queue (R85), oldest first. -/
  events : List Event
  /-- The model's own: bytes put on the link (R82) and not yet carried off by the environment (log 18). -/
  link : List Byte
  /-- The model's own: how many free values this instance has drawn (log 11). -/
  draws : Nat
  deriving DecidableEq, Repr

/-- What the environment does next (10_state.md R80 to R89; log 2). -/
inductive Input where
  /-- It issues an operation, or presents a frame (R84). -/
  | request (r : Request)
  /-- Power-on of the receiver node (70_reset_and_hazards.md R380). -/
  | receiverStart
  /-- A node start of the sensor (R380), with its cause (R89). -/
  | sensorStart (cause : ResetCause)
  /-- It drains the receiver's oldest `n` events (R85). -/
  | drainReceiver (n : Nat)
  /-- It drains the sensor's oldest `n` events (R85). -/
  | drainSensor (n : Nat)
  /-- The link carries off the sensor's oldest `n` bytes (R82). -/
  | carryLink (n : Nat)
  deriving DecidableEq, Repr

/-- The whole state: one instance of each personality (R3, log 3), their constant configuration (log 4), the last result and
the environment's next inputs. -/
structure State where
  /-- The configuration: constant (R50; log 4). -/
  cfg : Config
  rx : Receiver
  tx : Sensor
  /-- The model's own: what the last operation returned (R84; log 17). -/
  result : Result
  /-- The model's own: what the environment does next, in order (log 2). -/
  pending : List Input
  deriving DecidableEq, Repr

/-- Faults: none. "Nothing is fatal": "There is no halted, faulted or stuck state of the block as a whole"
(60_exceptions.md R356; log 22). The conditions of R340 are events, not faults. -/
inductive Fault where
  deriving DecidableEq, Repr

/-- Why an operation has no meaning. Each is the spec's own: safe, for nothing can be proved of what the hardware does then. -/
inductive Refusal where
  /-- An operation that has no meaning in this model yet; raised by `exec`'s refused arms (there is none). Safe. -/
  | notModelled (mnemonic : String)
  /-- Raised by `MB_APPLY`, `MB_PEND_FIRE`, `MB_HEALTH`, `MB_ACK` and `MB_RELIABILITY`: "issued for `i` = 0 or for an invalid slot
  it is refused" (43_mailbox_state.md R260, U10). Safe. -/
  | slotNotRegistered (id : MailboxId)
  /-- Raised by `TX_SEND` while `radio_awake` is `Some(0)` or `Unknown` (42_transmitter.md R239, U11). Safe. -/
  | radioNotAwake
  /-- Raised by `step`: a command code that "selects no operation" (30_encoding.md R151). Safe. -/
  | unassignedCode (code : Byte)
  /-- Raised by `step` on every input: the configuration breaks the constraints of 00_scope.md R36 or a parameter's range, and is
  "not a configuration" (U22). Safe. -/
  | illFormedConfiguration
  /-- Raised by `step`: a word that is neither one command byte nor the eight bytes of a frame (30_encoding.md R144, R151). Safe. -/
  | badLength (bytes : Nat)
  deriving DecidableEq, Repr

/-- The receiver right after node start (70_reset_and_hazards.md R381). `rx_buf` and `rx_t0` are unspecified there: zero is
the model's DESIGN CHOICE (log 12). -/
def Receiver.reset : Receiver where
  rxBuf := Vector.replicate 8 0
  rxState := .idle
  rxCount := 0
  rxT0 := 0
  rxArmed := true
  rxMsgValid := false
  slots := Vector.replicate 15 none
  globalAlarm := .noAlarm
  events := []
  draws := 0

/-- The sensor right after a cold boot (70_reset_and_hazards.md R383, "any other boot"). `tx_buf`, `tx_busy_t0`, `ret_seq` and
`ret_batt` are unspecified there: zero is the model's DESIGN CHOICE (log 12). -/
def Sensor.reset : Sensor where
  txBuf := Vector.replicate 8 0
  txSeq := 0
  txSent := 0
  txBatt := battUnknown
  battFirstPending := true
  radioAwake := none
  txBusyT0 := 0
  txBusyDur := 0
  retSeq := 0
  retBatt := 0
  bootFlag := true
  events := []
  link := []
  draws := 0

/-- The machine right after reset: both nodes after their power-on node start (R381, R383; log 13), the reference
configuration (log 4), and nothing pending from the environment (R384; log 2). -/
def State.reset : State where
  cfg := cfg0
  rx := Receiver.reset
  tx := Sensor.reset
  result := .nothing
  pending := []

end Sys2Proof.Machine
end

