-- ==== Sys2Proof/Machine/Flags.lean ====
section
/-! DEFINITION. The tests the operations make: time and expiry (00_scope.md R44), the severity order (R43), and every
condition that sets a flag or chooses a transition (10_state.md R90). -/

namespace Sys2Proof.Machine

/-- `elapsed(now, t0)` = `(now - t0) mod 2^TIME_BITS`, in milliseconds (R44). -/
def elapsed (now t0 : Time) : Nat := (now - t0).toNat

/-- A duration `d` started at `t0` has expired at `now` (R44): at or after, not strictly after. -/
def durationExpired (now t0 : Time) (d : Nat) : Bool := decide (d ≤ elapsed now t0)

/-- The number of a severity (R43). -/
def Severity.code : Severity → Nat
  | .noAlarm => 0
  | .booted => 1
  | .lowBattery => 2
  | .absent => 3
  | .doorFlipped => 4
  | .doorLeftOpen => 5
  | .doorOpenNow => 6

/-- Strictly lower (R43: "comparison of severities is comparison of these numbers"). -/
def Severity.below (a b : Severity) : Bool := decide (a.code < b.code)

/-- The higher of two severities (R40, R43). -/
def Severity.higher (a b : Severity) : Severity := if a.below b then b else a

/-- The number of a condition (60_exceptions.md R340). -/
def Condition.code : Condition → Nat
  | .badVersion _ => 1
  | .badAddress _ => 2
  | .badChecksum _ => 3
  | .rxTimeout _ => 4
  | .seqDesync _ _ => 5
  | .invalidId _ => 6
  | .persistFail _ => 7
  | .badRecord _ => 8
  | .pendingTimeout _ => 9

/-- A receiver address this receiver takes: its own or broadcast (41_receiver.md R205). -/
def addressTaken (cfg : Config) (raddr : BitVec 4) : Bool := raddr == cfg.ownAddr || raddr == broadcastAddr

/-- The receive deadline has passed (41_receiver.md R209). -/
def Receiver.deadlinePassed (cfg : Config) (now : Time) (r : Receiver) : Bool :=
  r.rxState == .assembling && durationExpired now r.rxT0 cfg.rxTimeoutMs

/-- `settling(now)`: the settle delay in force has not run out (42_transmitter.md R238). -/
def Sensor.settling (now : Time) (t : Sensor) : Bool := decide (elapsed now t.txBusyT0 < t.txBusyDur)

/-- A slot's pending deadline is due (43_mailbox_state.md R290 step 1). -/
def Slot.pendingDue (cfg : Config) (now : Time) (m : Slot) : Bool :=
  m.pendArmed && durationExpired now m.pendT0 cfg.pendingTimeoutMs

/-- `absent_now` (43_mailbox_state.md R294 step 1, R295): both times known, the wall clock not behind, and strictly more than
the window. -/
def Slot.absentNow (cfg : Config) (wall : Wall) (m : Slot) : Bool :=
  match wall, m.lastSeen with
  | some w, some l => decide (l ≤ w) && decide (cfg.absenceWindowS < w - l)
  | _, _ => false

/-- `low_now` (43_mailbox_state.md R294 step 2, R297). -/
def Slot.lowNow (cfg : Config) (m : Slot) : Bool := decide (m.battery.toNat ≤ cfg.battLowPct)

/-- A gap that is a desynchronisation: strictly above `LOSS_SANITY_MAX` (43_mailbox_state.md R274). -/
def lossIsDesync (cfg : Config) (lost : Nat) : Bool := decide (cfg.lossSanityMax < lost)

/-- A bounce: a `FRM.CLOSED` frame with a local uptime under `BOUNCE_MS` (43_mailbox_state.md R284). -/
def isBounce (cfg : Config) (f : Fields) : Bool :=
  decide (frameClass f.boot f.door = .closed) && decide (f.uptime.toNat < cfg.bounceMs)

/-- The alarm after an applied frame of a class, given the alarm before it (43_mailbox_state.md R281 to R283). -/
def alarmAfterFrame (before : Severity) : FrameClass → Severity
  | .boot => .booted
  | .opened => if before = .doorOpenNow then .doorLeftOpen else .doorOpenNow
  | .closed => .doorFlipped

/-- An alarm raised to `target` only if it is strictly below it (43_mailbox_state.md R261). -/
def Severity.raisedTo (a target : Severity) : Severity := if a.below target then target else a

end Sys2Proof.Machine
end

