-- ==== Sys2Proof/Machine/Ops.lean ====
section
/-! DEFINITION. The named operations the meanings share: the sequence advance, raising a condition and emitting an event
(60_exceptions.md R355), the slot file, the global alarm, node starts, and the forms in which an operation answers. -/

namespace Sys2Proof.Machine

/-- `NEXT_SEQ` (40_codec.md R177): one more, and 2 instead of the reserved 0. -/
def seqAfter (c : SeqNo) : SeqNo := if c + 1#16 = 0#16 then 2#16 else c + 1#16

/-! ### Conditions and events -/

/-- `emit` (00_scope.md R40): append an event to the receiver's queue. -/
def Receiver.emit (e : Event) (r : Receiver) : Receiver := { r with events := r.events ++ [e] }

/-- Append several events, in order. -/
def Receiver.emitAll (es : List Event) (r : Receiver) : Receiver := { r with events := r.events ++ es }

/-- Taking a condition (60_exceptions.md R355): "saves nothing and transfers control nowhere"; one event carries the recorded
value. The state changes that go with it are written by the operation before it raises (00_scope.md R40). There is no return
(R357). -/
def Receiver.raise (c : Condition) (r : Receiver) : Receiver := r.emit (.condition c)

/-- `emit` on the sensor's queue. -/
def Sensor.emit (e : Event) (t : Sensor) : Sensor := { t with events := t.events ++ [e] }

/-- The events of a record write or removal (10_state.md R87): the command and, when the store fails it, `PersistFail(id)`
directly after it (60_exceptions.md R349). -/
def persistEvents (e : Event) (id : MailboxId) (fails : Bool) : List Event :=
  if fails then [e, .condition (.persistFail id)] else [e]

/-- A write or removal of a mailbox's record (R349): no state depends on the store's answer. -/
def Receiver.persist (e : Event) (id : MailboxId) (fails : Bool) (r : Receiver) : Receiver :=
  r.emitAll (persistEvents e id fails)

/-! ### The slot file -/

/-- Slot `i` of the file, if `i` is not 0 and the slot is valid (10_state.md R60, 20_memory.md R102). -/
def Receiver.slot? (r : Receiver) (i : MailboxId) : Option Slot :=
  if h : i = 0#4 then none
  else r.slots[i.toNat - 1]'(by have := i.isLt; omega)

/-- Write slot `i`: `some m` makes it valid with those fields, `none` invalid. There is no slot 0 (R60). -/
def Receiver.setSlot (i : MailboxId) (m : Option Slot) (r : Receiver) : Receiver :=
  if h : i = 0#4 then r
  else { r with slots := r.slots.set (i.toNat - 1) m (by have := i.isLt; omega) }

/-- The valid slots with their ids, ascending (44_registry.md R322). -/
def Receiver.validSlots (r : Receiver) : List (MailboxId × Slot) :=
  allIds.filterMap fun i => (r.slot? i).map fun m => (i, m)

/-- The maximum alarm over the valid slots, `None` when there is none (10_state.md R73, 44_registry.md R315). -/
def Receiver.maxAlarm (r : Receiver) : Severity :=
  r.validSlots.foldl (fun a p => a.higher p.2.alarm) .noAlarm

/-- `global_alarm <- max over valid slots of alarm` (44_registry.md R315). -/
def Receiver.recompute (r : Receiver) : Receiver := { r with globalAlarm := r.maxAlarm }

/-- The creation values of a slot (10_state.md R94), with `pend_t0` as given: unspecified, so the caller draws it (log 10). -/
def Slot.fresh (pendT0 : Time) : Slot where
  label := []
  boot := false
  online := false
  door := false
  battery := battUnknown
  seq := 0
  sent := 0
  received := 0
  lastSeen := none
  alarm := .noAlarm
  pendArmed := false
  pendT0 := pendT0
  battReported := false
  voiceReported := false

/-- The creation values with the next free `pend_t0` of this receiver (R94, R382; log 10). -/
def Receiver.freshSlot (r : Receiver) : Slot := Slot.fresh (Config.freePendT0 r.draws)

/-- Make slot `i` valid with fields `m`, and count the free value drawn for it (log 10). -/
def Receiver.createSlot (i : MailboxId) (m : Slot) (r : Receiver) : Receiver :=
  { r.setSlot i (some m) with draws := r.draws + 1 }

/-- Visit the slots of the given ids in order; each valid one is replaced by what `f` makes of it, its events are appended,
and what `f` returns is listed with its id (44_registry.md R316, R318, R320). -/
def Receiver.sweep {β : Type} (f : MailboxId → Slot → Slot × List Event × β) :
    List MailboxId → Receiver → Receiver × List (MailboxId × β)
  | [], r => (r, [])
  | i :: is, r =>
    match r.slot? i with
    | none => Receiver.sweep f is r
    | some m =>
      let after := Receiver.sweep f is ((r.setSlot i (some (f i m).1)).emitAll (f i m).2.1)
      (after.1, (i, (f i m).2.2) :: after.2)

/-! ### Node starts: the block's one reset event (70_reset_and_hazards.md R380) -/

/-- Receiver node start (R381). `rx_buf` and `rx_t0` are unspecified: free values (log 11). -/
def Receiver.nodeStart (r : Receiver) : Receiver where
  rxBuf := Config.freeRxBuf r.draws
  rxState := .idle
  rxCount := 0
  rxT0 := Config.freeRxT0 r.draws
  rxArmed := true
  rxMsgValid := false
  slots := Vector.replicate 15 none
  globalAlarm := .noAlarm
  events := []
  draws := r.draws + 1

/-- Sensor node start (R383, 42_transmitter.md R247). A wake from sleep restores the two retained slots and keeps them; after any
other boot nothing is read from them and they are unspecified: free values (log 11), as `tx_buf` and `tx_busy_t0` are after
both. Only the retained slots survive the node's sleep (60_exceptions.md R365), so the event queue starts empty; the bytes on
the link are outside the node (log 18). -/
def Sensor.nodeStart (cause : ResetCause) (t : Sensor) : Sensor where
  txBuf := Config.freeTxBuf t.draws
  txSeq := if cause = .wakeFromSleep then t.retSeq else 0
  txSent := 0
  txBatt := if cause = .wakeFromSleep then t.retBatt else battUnknown
  battFirstPending := decide (cause ≠ .wakeFromSleep)
  radioAwake := none
  txBusyT0 := Config.freeTxBusyT0 t.draws
  txBusyDur := 0
  retSeq := if cause = .wakeFromSleep then t.retSeq else Config.freeRetSeq t.draws
  retBatt := if cause = .wakeFromSleep then t.retBatt else Config.freeRetBatt t.draws
  bootFlag := decide (cause ≠ .wakeFromSleep)
  events := []
  link := t.link
  draws := t.draws + 1

/-! ### How an operation answers -/

/-- What a meaning answers. -/
abbrev Answer := Host.Outcome State Fault Refusal

/-- A pure operation: only the result changes (20_memory.md R113, 40_codec.md R170). -/
def State.answer (s : State) (r : Result) : Answer := .next { s with result := r }

/-- An operation of the receiver: the sensor is untouched (00_scope.md R3). -/
def State.rxAnswer (s : State) (rx : Receiver) (r : Result) : Answer := .next { s with rx := rx, result := r }

/-- An operation of the sensor: the receiver is untouched (00_scope.md R3). -/
def State.txAnswer (s : State) (tx : Sensor) (r : Result) : Answer := .next { s with tx := tx, result := r }

/-- Run an `MB_*` operation on slot `i`: refused for `i` = 0 or an invalid slot (43_mailbox_state.md R260). -/
def State.onSlot (s : State) (i : MailboxId) (k : Slot → Answer) : Answer :=
  match s.rx.slot? i with
  | none => .refused (.slotNotRegistered i)
  | some m => k m

/-- A radio operation that is held while the transmitter settles: nothing changes and the result says so
(42_transmitter.md R238; log 8). -/
def State.unlessSettling (s : State) (now : Time) (k : Answer) : Answer :=
  if s.tx.settling now then s.answer .held else k

/-! ### What a step adds to an operation -/

/-- With a configuration that breaks 00_scope.md R36 or a parameter's range there is no successor: it is "not a configuration"
(U22). -/
def State.unlessIllFormed (s : State) (k : Answer) : Answer :=
  if s.cfg.wf then k else .refused .illFormedConfiguration

/-- The operations that write a slot's alarm without recomputing the global alarm (43_mailbox_state.md R260). -/
def writesSlotDirectly : Instr → Bool
  | .mbApply _ _ _ _ | .mbPendFire _ _ | .mbHealth _ _ | .mbAck _ => true
  | .codecEncode _ | .codecDecode _ | .checksum _ | .checksumOk _ | .versionOk _ | .nextSeq _ | .getf _ _ | .setf _ _ => false
  | .rxByte _ _ | .rxTick _ | .rxService _ _ | .msgAvail | .takeMsg _ | .rxArm => false
  | .txSend _ _ _ | .txSleep _ | .txWakeup _ | .battSample _ | .retSave => false
  | .mbReliability _ => false
  | .regLookupOrCreate _ _ | .regDelete _ _ | .regDispatch _ _ | .regRecompute => false
  | .regAck _ _ | .regRollcall _ | .regTimers _ | .regEnum | .regLoad _ => false
  | .frmBoot _ _ _ | .frmOpen _ _ | .frmClosed _ _ => false

/-- An operation issued by itself, to its end: "a model that issues `MB_*` operations directly must follow each with
`REG_RECOMPUTE`" (43_mailbox_state.md R260), so that the global alarm is the maximum between any two operations (10_state.md R73,
R92 item 5; log 24). The result is the operation's own. -/
def completed (i : Instr) : Answer → Answer
  | .next t => .next (if writesSlotDirectly i then { t with rx := t.rx.recompute } else t)
  | .fault r => .fault r
  | .refused r => .refused r

/-! ### The environment's inputs (log 2) -/

/-- The refusal of a request that selects no operation (30_encoding.md R144, R151). -/
def refusalOf : DecodeReject → Refusal
  | .unassignedCode code => .unassignedCode code
  | .badLength n => .badLength n

/-- The effect of an input that is not a request: a node start (R380) or the draining of an output (R82, R85; U27). -/
def State.input (s : State) : Input → State
  | .request _ => s
  | .receiverStart => { s with rx := s.rx.nodeStart }
  | .sensorStart cause => { s with tx := s.tx.nodeStart cause }
  | .drainReceiver n => { s with rx := { s.rx with events := s.rx.events.drop n } }
  | .drainSensor n => { s with tx := { s.tx with events := s.tx.events.drop n } }
  | .carryLink n => { s with tx := { s.tx with link := s.tx.link.drop n } }

end Sys2Proof.Machine
end

