-- ==== Sys2Proof/Machine/MailboxState.lean ====
section
/-! DEFINITION. MailboxState (43_mailbox_state.md): the alarm and loss-accounting state machine of one slot. The functions on a
slot are shared with the registry; the `MB_*` operations run them on one slot and do not recompute the global alarm (R260). -/

namespace Sys2Proof.Machine

/-- `lost` (R271): the gap to the expected number, modulo 2^16. A boot frame is exempt (R270). -/
def Slot.lost (m : Slot) (f : Fields) : Nat := if f.boot then 0 else (f.seq - seqAfter m.seq).toNat

/-- Whether the frame is a desynchronisation (R274); a boot frame never is (R270). -/
def Slot.desync (cfg : Config) (m : Slot) (f : Fields) : Bool := !f.boot && lossIsDesync cfg (m.lost f)

/-- `lost_events` (R275): whole events lost, by the parity of the number received. -/
def lostEvents (lost : Nat) (seq : SeqNo) : Nat := if 0 < lost then (lost - (seq.toNat + 1) % 2) / 2 else 0

/-- Whether the frame is credited (R270, R272 to R274). -/
def Slot.credited (cfg : Config) (m : Slot) (f : Fields) : Bool := !f.boot && !m.desync cfg f

/-- The slot after an applied frame (R262 steps 1 to 4): loss accounting on the old sequence number, the snapshot (R280), the
alarm transition of the frame's class on the old alarm (R281 to R284), the pending timer (R285). -/
def Slot.afterFrame (cfg : Config) (f : Fields) (now : Time) (wall : Wall) (m : Slot) : Slot :=
  { m with
    sent := if m.credited cfg f then m.sent + m.lost f + 1 else m.sent
    received := if m.credited cfg f then m.received + 1 else m.received
    boot := f.boot
    online := f.online
    door := f.door
    battery := f.battery
    seq := f.seq
    lastSeen := wall
    alarm := alarmAfterFrame m.alarm (frameClass f.boot f.door)
    voiceReported := isBounce cfg f
    pendArmed := f.online
    pendT0 := if f.online then now else m.pendT0 }

/-- The record `MB_APPLY` returns (R287). -/
def Slot.applyResult (cfg : Config) (f : Fields) (m : Slot) : ApplyResult where
  before := m.alarm
  after := alarmAfterFrame m.alarm (frameClass f.boot f.door)
  lost := m.lost f
  desync := m.desync cfg f
  lostEvents := lostEvents (m.lost f) f.seq
  bounce := isBounce cfg f

/-- The events of one application before the record write (R286), in order. -/
def Slot.frameEvents (cfg : Config) (f : Fields) (m : Slot) : List Event :=
  (if m.desync cfg f then [.condition (.seqDesync f.id (m.lost f))] else []) ++
  (if 0 < lostEvents (m.lost f) f.seq then [.notifyLostMessages (lostEvents (m.lost f) f.seq)] else []) ++
  [.notifyEvent f.id f.uptime (isBounce cfg f)]

/-- The receiver after `MB_APPLY` on the valid slot `m` = `MB[f.id]` (R262): the slot, then the events, then the record write
with the store's answer (20_memory.md R123). -/
def Receiver.applyFrame (cfg : Config) (f : Fields) (now : Time) (wall : Wall) (fails : Bool) (m : Slot) (r : Receiver) :
    Receiver :=
  ((r.setSlot f.id (some (m.afterFrame cfg f now wall))).emitAll (m.frameEvents cfg f)).persist
    (.persistWrite f.id m.label wall f.battery) f.id fails

/-- A pending-timeout firing of a slot (R290 steps 1 to 6): the slot after it, its events, and whether it fired. -/
def Slot.pendFire (cfg : Config) (now : Time) (i : MailboxId) (m : Slot) : Slot × List Event × Bool :=
  if m.pendingDue cfg now then
    ({ m with
       seq := seqAfter m.seq
       sent := m.sent + 1
       alarm := if m.alarm = .noAlarm then .noAlarm else .doorFlipped
       pendArmed := false },
     [.condition (.pendingTimeout i)], true)
  else (m, [], false)

/-- Step 1 of the health check (R294, R295, R296): absence raises and, when the alarm changes, notifies. -/
def Slot.healthAbsent (cfg : Config) (wall : Wall) (i : MailboxId) (m : Slot) : Slot × List Event :=
  if m.absentNow cfg wall && m.alarm.below .absent then ({ m with alarm := .absent }, [.notifyAbsent i]) else (m, [])

/-- Step 2 of the health check (R294, R297, R298): a low battery raises, and is notified once until acknowledged. -/
def Slot.healthLow (cfg : Config) (i : MailboxId) (m : Slot) : Slot × List Event :=
  if m.lowNow cfg then
    ({ m with alarm := m.alarm.raisedTo .lowBattery, battReported := true },
     if m.battReported then [] else [.notifyLowBattery i])
  else (m, [])

/-- The health check of a slot (R294): the slot after it, its events, and `ok`. -/
def Slot.health (cfg : Config) (wall : Wall) (i : MailboxId) (m : Slot) : Slot × List Event × Bool :=
  let a := m.healthAbsent cfg wall i
  let b := a.1.healthLow cfg i
  (b.1, a.2 ++ b.2, !(m.absentNow cfg wall || m.lowNow cfg))

/-- The slot after an acknowledgement (R300): the alarm and the battery-reported flag, nothing else. -/
def Slot.acked (m : Slot) : Slot := { m with alarm := .noAlarm, battReported := false }

/-- Radio reliability (R302): whole percent rounded down, `Unknown` when nothing was sent. -/
def Slot.reliability (m : Slot) : Option Nat := if 0 < m.sent then some (100 * m.received / m.sent) else none

/-- `MB_APPLY` (R262). -/
def execMbApply (f : Fields) (now : Time) (wall : Wall) (fails : Bool) (s : State) : Answer :=
  s.onSlot f.id fun m => s.rxAnswer (s.rx.applyFrame s.cfg f now wall fails m) (.applied (m.applyResult s.cfg f))

/-- `MB_PEND_FIRE` (R290). -/
def execMbPendFire (i : MailboxId) (now : Time) (s : State) : Answer :=
  s.onSlot i fun m =>
    let p := m.pendFire s.cfg now i
    s.rxAnswer ((s.rx.setSlot i (some p.1)).emitAll p.2.1) (if p.2.2 then .fired else .notDue)

/-- `MB_HEALTH` (R294). -/
def execMbHealth (i : MailboxId) (wall : Wall) (s : State) : Answer :=
  s.onSlot i fun m =>
    let h := m.health s.cfg wall i
    s.rxAnswer ((s.rx.setSlot i (some h.1)).emitAll h.2.1) (.bool h.2.2)

/-- `MB_ACK` (R300). -/
def execMbAck (i : MailboxId) (s : State) : Answer :=
  s.onSlot i fun m => s.rxAnswer (s.rx.setSlot i (some m.acked)) (.severity m.alarm)

/-- `MB_RELIABILITY` (R302). -/
def execMbReliability (i : MailboxId) (s : State) : Answer :=
  s.onSlot i fun m => s.answer (.percent m.reliability)

end Sys2Proof.Machine
end

