-- ==== Sys2Proof/Machine/MailboxRegistry.lean ====
section
/-! DEFINITION. MailboxRegistry (44_registry.md): the collection of slots and the global alarm. Every operation that can change an
alarm or a `valid` bit ends by recomputing the global alarm (R310). -/

namespace Sys2Proof.Machine

/-- The receiver after a slot is created and "persisted as new" (R312 steps 3 and 4). -/
def Receiver.register (id : MailboxId) (fails : Bool) (r : Receiver) : Receiver :=
  (r.createSlot id r.freshSlot).persist (.persistWrite id [] none battUnknown) id fails

/-- `REG_DISPATCH` as a function (R314): id 0 is rejected with `InvalidId` (R311); an unknown id is registered first; then the
frame is applied and the global alarm recomputed. -/
def Receiver.dispatch (cfg : Config) (f : Fields) (env : DispatchEnv) (r : Receiver) : Receiver × Result :=
  if f.id = 0#4 then (r.raise (.invalidId 0#4), .rejected)
  else
    match r.slot? f.id with
    | some m =>
      ((r.applyFrame cfg f env.now env.wall env.applyFails m).recompute, .dispatched false (m.applyResult cfg f))
    | none =>
      (((r.register f.id env.createFails).applyFrame cfg f env.now env.wall env.applyFails r.freshSlot).recompute,
       .dispatched true (r.freshSlot.applyResult cfg f))

/-- The slot a record reconstructs (R324, R382): creation values but for what the record holds. -/
def Slot.loaded (label : Label) (lastSeen : Wall) (battery : Battery) (m : Slot) : Slot :=
  { m with label := label, lastSeen := lastSeen, battery := battery }

/-- One id of `REG_LOAD` (R324): the receiver after it, and whether the id was loaded. A valid slot stands as it is. -/
def Receiver.loadOne (i : MailboxId) (answer : ProbeAnswer) (r : Receiver) : Receiver × Bool :=
  match r.slot? i with
  | some _ => (r, false)
  | none =>
    match answer with
    | .noRecord => (r, false)
    | .malformed => (r.raise (.badRecord i), false)
    | .record label lastSeen battery => (r.createSlot i (r.freshSlot.loaded label lastSeen battery), true)

/-- The loop of `REG_LOAD` (R324): the ids in order with their answers; with the receiver after it, the ids loaded. -/
def Receiver.loadAll (labelMax : Nat) : List (MailboxId × ProbeAnswer) → Receiver → Receiver × List MailboxId
  | [], r => (r, [])
  | (i, a) :: rest, r =>
    let one := r.loadOne i (a.checked labelMax)
    let after := Receiver.loadAll labelMax rest one.1
    (after.1, if one.2 then i :: after.2 else after.2)

/-- `REG_LOOKUP_OR_CREATE` (R312). -/
def execRegLookupOrCreate (id : MailboxId) (fails : Bool) (s : State) : Answer :=
  if id = 0#4 then s.rxAnswer (s.rx.raise (.invalidId 0#4)) .rejected
  else
    match s.rx.slot? id with
    | some _ => s.answer .found
    | none => s.rxAnswer (s.rx.register id fails).recompute .created

/-- `REG_DELETE` (R313): a slot that is not valid, and id 0, are not found and nothing changes. -/
def execRegDelete (id : MailboxId) (fails : Bool) (s : State) : Answer :=
  match s.rx.slot? id with
  | none => s.answer .notFound
  | some _ => s.rxAnswer ((s.rx.setSlot id none).persist (.persistRemove id) id fails).recompute .deleted

/-- `REG_DISPATCH` (R314). The registry does not test version, address or checksum again. -/
def execRegDispatch (f : Fields) (env : DispatchEnv) (s : State) : Answer :=
  s.rxAnswer (s.rx.dispatch s.cfg f env).1 (s.rx.dispatch s.cfg f env).2

/-- `REG_RECOMPUTE` (R315). -/
def execRegRecompute (s : State) : Answer := s.rxAnswer s.rx.recompute (.severity s.rx.maxAlarm)

/-- `REG_ACK` (R316): one slot, or all of them; the actor is not inspected (R317). -/
def execRegAck (_actor : List Byte) (target : AckTarget) (s : State) : Answer :=
  match target with
  | .all =>
    s.rxAnswer (s.rx.sweep (fun _ m => (m.acked, [], ())) allIds).1.recompute (.severity s.rx.globalAlarm)
  | .one i =>
    match s.rx.slot? i with
    | none => s.answer (.severity .noAlarm)
    | some m => s.rxAnswer (s.rx.setSlot i (some m.acked)).recompute (.severity m.alarm)

/-- `REG_ROLLCALL` (R318): the health check of every valid slot, ascending. -/
def execRegRollcall (wall : Wall) (s : State) : Answer :=
  let swept := s.rx.sweep (fun i m => m.health s.cfg wall i) allIds
  s.rxAnswer swept.1.recompute (.health swept.2)

/-- `REG_TIMERS` (R320): the pending timer of every valid slot, ascending; the ids that fired. -/
def execRegTimers (now : Time) (s : State) : Answer :=
  let swept := s.rx.sweep (fun i m => m.pendFire s.cfg now i) allIds
  s.rxAnswer swept.1.recompute (.ids ((swept.2.filter fun p => p.2).map fun p => p.1))

/-- `REG_ENUM` (R322): the valid slots' records by ascending id. -/
def execRegEnum (s : State) : Answer := s.answer (.records s.rx.validSlots)

/-- `REG_LOAD` (R324). -/
def execRegLoad (probe : Vector ProbeAnswer 15) (s : State) : Answer :=
  let loaded := Receiver.loadAll s.cfg.labelMax (allIds.zip probe.toList) s.rx
  s.rxAnswer loaded.1.recompute (.ids loaded.2)

end Sys2Proof.Machine
end

