-- ==== Sys2Proof/Machine/FrameClass.lean ====
section
/-! DEFINITION. The frame classes (30_encoding.md R145 to R148): a frame word as an operation. A frame that meets the acceptance
conditions is dispatched, and its class's alarm transition is the one `MB_APPLY` makes (43_mailbox_state.md R281 to R283); one that
does not is discarded with its condition and no mailbox changes (41_receiver.md R214). How a frame word comes to be executed is
log 7. -/

namespace Sys2Proof.Machine

/-- The first acceptance condition a frame breaks (R148, R155 to R157), in the order of 60_exceptions.md R354. -/
def frameRejection (cfg : Config) (F : Frame) : Option Condition :=
  if frameVersionOk cfg.protoVersion F = false then some (.badVersion F[0])
  else if addressTaken cfg F.bits.raddr = false then some (.badAddress F[0])
  else if frameChecksumOk F = false then some (.badChecksum F)
  else none

/-- A frame presented to the registry: accepted and dispatched, or discarded with its condition. -/
def State.frameArrives (F : Frame) (env : DispatchEnv) (s : State) : Answer :=
  match frameRejection s.cfg F with
  | some c => s.rxAnswer (s.rx.raise c) .discarded
  | none => s.rxAnswer (s.rx.dispatch s.cfg F.fields env).1 (s.rx.dispatch s.cfg F.fields env).2

/-- `FRM.BOOT` (43_mailbox_state.md R281). -/
def execFrmBoot (o : FrameOperands) (door : Bool) (env : DispatchEnv) (s : State) : Answer :=
  s.frameArrives (o.bits true door).toFrame env

/-- `FRM.OPEN` (43_mailbox_state.md R282). -/
def execFrmOpen (o : FrameOperands) (env : DispatchEnv) (s : State) : Answer :=
  s.frameArrives (o.bits false true).toFrame env

/-- `FRM.CLOSED` (43_mailbox_state.md R283). -/
def execFrmClosed (o : FrameOperands) (env : DispatchEnv) (s : State) : Answer :=
  s.frameArrives (o.bits false false).toFrame env

end Sys2Proof.Machine
end

