-- ==== Sys2Proof/Machine/FrameReceiver.lean ====
section
/-! DEFINITION. FrameReceiver (41_receiver.md): reassembles frames from the link's bytes, one at a time. -/

namespace Sys2Proof.Machine

/-- Back to `Idle` with the frame in progress dropped (R205, R207, R209). -/
def Receiver.toIdle (r : Receiver) : Receiver := { r with rxState := .idle, rxCount := 0 }

/-- Step 2, first-byte validation (R205): the version first, then the address; a failure drops the byte and raises. -/
def Receiver.validateFirst (cfg : Config) (r : Receiver) : Receiver :=
  if r.rxBuf.bits.ver ≠ cfg.protoVersion then r.toIdle.raise (.badVersion r.rxBuf[0])
  else if addressTaken cfg r.rxBuf.bits.raddr = false then r.toIdle.raise (.badAddress r.rxBuf[0])
  else r

/-- Step 4, completion (R207): a good checksum exposes the frame and stops listening; a bad one drops it and raises. -/
def Receiver.complete (r : Receiver) : Receiver :=
  if frameChecksumOk r.rxBuf then { r.toIdle with rxMsgValid := true, rxArmed := false }
  else r.toIdle.raise (.badChecksum r.rxBuf)

/-- Step 1, start of a frame (R203, R204): any byte, and the deadline's start. -/
def Receiver.startFrame (b : Byte) (now : Time) (r : Receiver) : Receiver :=
  { r with rxState := .assembling, rxT0 := now, rxBuf := r.rxBuf.set 0 b, rxCount := 1 }

/-- Steps 1 to 4 for a byte that is taken (R203 with `rx_armed` = 1). -/
def Receiver.takeByte (cfg : Config) (b : Byte) (now : Time) (r : Receiver) : Receiver :=
  match r.rxState with
  | .idle => (r.startFrame b now).validateFirst cfg
  | .assembling =>
    if r.rxCount = 7 then { r with rxBuf := r.rxBuf.set 7 b }.complete
    else { r with rxBuf := r.rxBuf.set r.rxCount.val b, rxCount := r.rxCount + 1 }

/-- `RX_TICK` as a function (R209): the receiver after it, and whether the deadline had expired. -/
def Receiver.tick (cfg : Config) (now : Time) (r : Receiver) : Receiver × Bool :=
  if r.deadlinePassed cfg now then (r.toIdle.raise (.rxTimeout r.rxCount.val), true) else (r, false)

/-- The loop of `RX_SERVICE` (R210): bytes are offered in order and the loop stops at the first one declined; with it, how many
were taken. -/
def Receiver.feed (cfg : Config) (now : Time) : List Byte → Receiver → Receiver × Nat
  | [], r => (r, 0)
  | b :: bs, r =>
    if r.rxArmed then
      let after := Receiver.feed cfg now bs (r.takeByte cfg b now)
      (after.1, after.2 + 1)
    else (r, 0)

/-- `RX_BYTE` (R203): declined, with nothing changed, while the receiver is not listening. -/
def execRxByte (b : Byte) (now : Time) (s : State) : Answer :=
  if s.rx.rxArmed then s.rxAnswer (s.rx.takeByte s.cfg b now) .accepted else s.answer .notListening

/-- `RX_TICK` (R209). -/
def execRxTick (now : Time) (s : State) : Answer :=
  s.rxAnswer (s.rx.tick s.cfg now).1 (if (s.rx.tick s.cfg now).2 then .expired else .notExpired)

/-- `RX_SERVICE` (R210): the bytes first, then one tick. -/
def execRxService (bytes : List Byte) (now : Time) (s : State) : Answer :=
  let fed := Receiver.feed s.cfg now bytes s.rx
  s.rxAnswer (fed.1.tick s.cfg now).1 (.consumed fed.2)

/-- `MSG_AVAIL` (R211). -/
def execMsgAvail (s : State) : Answer := s.answer (.bool s.rx.rxMsgValid)

/-- `TAKE_MSG` (R212): the held frame's fields, once. `DECODE` cannot fail on a held frame (10_state.md R92 item 4), so the
fields are read as `DECODE` reads them (log 16). With nothing held, nothing changes. -/
def execTakeMsg (rearm : Bool) (s : State) : Answer :=
  if s.rx.rxMsgValid then
    s.rxAnswer { s.rx with rxMsgValid := false, rxArmed := s.rx.rxArmed || rearm } (.message (some s.rx.rxBuf.fields))
  else s.answer (.message none)

/-- `RX_ARM` (R213): refused while a message is held. -/
def execRxArm (s : State) : Answer :=
  if s.rx.rxMsgValid then s.answer .armRefused else s.rxAnswer { s.rx with rxArmed := true } .armed

end Sys2Proof.Machine
end

