-- ==== Sys2Proof/Machine/FrameTransmitter.lean ====
section
/-! DEFINITION. FrameTransmitter, battery smoothing and retained memory (42_transmitter.md): the sensor personality. -/

namespace Sys2Proof.Machine

/-- A settle delay begins (R234 to R236). -/
def Sensor.settle (now : Time) (dur : Nat) (t : Sensor) : Sensor := { t with txBusyT0 := now, txBusyDur := dur }

/-- The fields `TX_SEND` stamps (R232 steps 1 and 3): the new sequence number, and `now` modulo 2^16 as the uptime (R233). -/
def Sensor.stamp (cfg : Config) (online door : Bool) (now : Time) (t : Sensor) : Fields where
  raddr := cfg.txRaddr
  id := cfg.txMboxId
  boot := t.bootFlag
  online := online
  door := door
  seq := seqAfter t.txSeq
  uptime := now.setWidth 16
  battery := t.txBatt

/-- The frame `TX_SEND` sends (R232 step 4). -/
def Sensor.outgoing (cfg : Config) (online door : Bool) (now : Time) (t : Sensor) : Frame :=
  encodeFields cfg.protoVersion (t.stamp cfg online door now)

/-- The sensor after a send (R232 steps 1 to 6): the bytes go to the link in index order. -/
def Sensor.send (cfg : Config) (online door : Bool) (now : Time) (t : Sensor) : Sensor :=
  { t with
    txSeq := seqAfter t.txSeq
    txSent := t.txSent + 1
    txBuf := t.outgoing cfg online door now
    link := t.link ++ (t.outgoing cfg online door now).toList
    txBusyT0 := now
    txBusyDur := cfg.txSettleMs }

/-- A radio power command (R235, R236). -/
def Sensor.power (command : RadioCommand) (now : Time) (dur : Nat) (t : Sensor) : Sensor :=
  { (t.emit (.radioPower command)).settle now dur with radioAwake := some (decide (command = .wake)) }

/-- `clamp(v, lo, hi)` (00_scope.md R40). -/
def clamp (v lo hi : Int) : Int := if v < lo then lo else if hi < v then hi else v

/-- The mapped reading `pct` (R241): clamped into the calibrated range, then mapped to 0 to 100, rounding down. -/
def battPercent (cfg : Config) (raw : Int) : Int :=
  ((clamp raw cfg.adcMin cfg.adcMax - cfg.adcMin) * 100) / (cfg.adcMax - cfg.adcMin)

/-- The stored value after a kept reading (R243): outright from "unknown", else a step of one `EMA_DIV`-th of the difference
rounded toward zero, clamped to 0 to 100. -/
def battBlend (cfg : Config) (stored : Battery) (pct : Int) : Battery :=
  if stored = battUnknown then BitVec.ofInt 7 pct
  else BitVec.ofInt 7 (clamp ((stored.toNat : Int) + (pct - (stored.toNat : Int)).tdiv cfg.emaDiv) 0 100)

/-- `TX_SEND` (R232): held while settling, refused with the radio not known awake (R239). -/
def execTxSend (online door : Bool) (now : Time) (s : State) : Answer :=
  s.unlessSettling now <|
    if s.tx.radioAwake = some true then
      s.txAnswer (s.tx.send s.cfg online door now) (.frame (s.tx.outgoing s.cfg online door now))
    else .refused .radioNotAwake

/-- `TX_SLEEP` (R235). -/
def execTxSleep (now : Time) (s : State) : Answer :=
  s.unlessSettling now (s.txAnswer (s.tx.power .sleep now s.cfg.sleepSettleMs) .done)

/-- `TX_WAKEUP` (R236). -/
def execTxWakeup (now : Time) (s : State) : Answer :=
  s.unlessSettling now (s.txAnswer (s.tx.power .wake now s.cfg.wakeSettleMs) .done)

/-- `BATT_SAMPLE` (R244): the first reading after a cold boot is dropped (R242). -/
def execBattSample (raw : Int) (s : State) : Answer :=
  if s.tx.battFirstPending then s.txAnswer { s.tx with battFirstPending := false } .done
  else s.txAnswer { s.tx with txBatt := battBlend s.cfg s.tx.txBatt (battPercent s.cfg raw) } .done

/-- `RET_SAVE` (R246). -/
def execRetSave (s : State) : Answer :=
  s.txAnswer { s.tx with retSeq := s.tx.txSeq, retBatt := s.tx.txBatt } .done

end Sys2Proof.Machine
end

