-- ==== Sys2Proof/Machine/MessageCodec.lean ====
section
/-! DEFINITION. MessageCodec (40_codec.md): pure functions of their operands and `PROTO_VERSION` (R170). They append no event
and change no state but the result. -/

namespace Sys2Proof.Machine

/-- `DECODE` as a function (R172): the version is tested before the checksum. -/
def decodeResult (version : BitVec 4) (F : Frame) : DecodeResult :=
  if frameVersionOk version F = false then .versionMismatch
  else if frameChecksumOk F = false then .checksumMismatch
  else .ok F.fields

/-- `SETF` as a function (R180): one field replaced, every other bit kept, the checksum not recomputed. -/
def setField (F : Frame) (v : FieldValue) : Frame := (F.bits.put v).toFrame

/-- `ENCODE` (R171). -/
def execCodecEncode (f : Fields) (s : State) : Answer := s.answer (.frame (encodeFields s.cfg.protoVersion f))

/-- `DECODE` (R172). -/
def execCodecDecode (F : Frame) (s : State) : Answer := s.answer (.decoded (decodeResult s.cfg.protoVersion F))

/-- `CHECKSUM` (R173). -/
def execChecksum (F : Frame) (s : State) : Answer := s.answer (.byte (frameChecksum F))

/-- `CHECKSUM_OK` (R174). -/
def execChecksumOk (F : Frame) (s : State) : Answer := s.answer (.bool (frameChecksumOk F))

/-- `VERSION_OK` (R175). -/
def execVersionOk (F : Frame) (s : State) : Answer := s.answer (.bool (frameVersionOk s.cfg.protoVersion F))

/-- `NEXT_SEQ` (R177). -/
def execNextSeq (c : SeqNo) (s : State) : Answer := s.answer (.seq (seqAfter c))

/-- `GETF` (R179): whatever the bits spell, with no test. -/
def execGetf (F : Frame) (name : FieldName) (s : State) : Answer := s.answer (.value (F.bits.get name))

/-- `SETF` (R180). -/
def execSetf (F : Frame) (v : FieldValue) (s : State) : Answer := s.answer (.frame (setField F v))

end Sys2Proof.Machine
end

