-- ==== Sys2Proof/Machine/Dispatch.lean ====
section
/-! DEFINITION. One arm per operation: the meaning of each is in the file of its unit. -/

namespace Sys2Proof.Machine

def exec (i : Instr) (s : State) : Host.Outcome State Fault Refusal :=
  match i with
  | .codecEncode f => Sys2Proof.Machine.execCodecEncode f s
  | .codecDecode F => Sys2Proof.Machine.execCodecDecode F s
  | .checksum F => Sys2Proof.Machine.execChecksum F s
  | .checksumOk F => Sys2Proof.Machine.execChecksumOk F s
  | .versionOk F => Sys2Proof.Machine.execVersionOk F s
  | .nextSeq c => Sys2Proof.Machine.execNextSeq c s
  | .getf F name => Sys2Proof.Machine.execGetf F name s
  | .setf F v => Sys2Proof.Machine.execSetf F v s
  | .rxByte b now => Sys2Proof.Machine.execRxByte b now s
  | .rxTick now => Sys2Proof.Machine.execRxTick now s
  | .rxService bytes now => Sys2Proof.Machine.execRxService bytes now s
  | .msgAvail => Sys2Proof.Machine.execMsgAvail s
  | .takeMsg rearm => Sys2Proof.Machine.execTakeMsg rearm s
  | .rxArm => Sys2Proof.Machine.execRxArm s
  | .txSend online door now => Sys2Proof.Machine.execTxSend online door now s
  | .txSleep now => Sys2Proof.Machine.execTxSleep now s
  | .txWakeup now => Sys2Proof.Machine.execTxWakeup now s
  | .battSample raw => Sys2Proof.Machine.execBattSample raw s
  | .retSave => Sys2Proof.Machine.execRetSave s
  | .mbApply f now wall fails => Sys2Proof.Machine.execMbApply f now wall fails s
  | .mbPendFire k now => Sys2Proof.Machine.execMbPendFire k now s
  | .mbHealth k wall => Sys2Proof.Machine.execMbHealth k wall s
  | .mbAck k => Sys2Proof.Machine.execMbAck k s
  | .mbReliability k => Sys2Proof.Machine.execMbReliability k s
  | .regLookupOrCreate id fails => Sys2Proof.Machine.execRegLookupOrCreate id fails s
  | .regDelete id fails => Sys2Proof.Machine.execRegDelete id fails s
  | .regDispatch f env => Sys2Proof.Machine.execRegDispatch f env s
  | .regRecompute => Sys2Proof.Machine.execRegRecompute s
  | .regAck actor target => Sys2Proof.Machine.execRegAck actor target s
  | .regRollcall wall => Sys2Proof.Machine.execRegRollcall wall s
  | .regTimers now => Sys2Proof.Machine.execRegTimers now s
  | .regEnum => Sys2Proof.Machine.execRegEnum s
  | .regLoad probe => Sys2Proof.Machine.execRegLoad probe s
  | .frmBoot o door env => Sys2Proof.Machine.execFrmBoot o door env s
  | .frmOpen o env => Sys2Proof.Machine.execFrmOpen o env s
  | .frmClosed o env => Sys2Proof.Machine.execFrmClosed o env s

end Sys2Proof.Machine
end

