-- ==== Sys2Proof/Machine/Step.lean ====
section
/-! DEFINITION. One step: the environment's next input. The block fetches nothing by itself (10_state.md R54); what the
environment does next stands in `pending` (log 2). -/

namespace Sys2Proof.Machine

/-- One step, in a configuration that is one (`State.unlessIllFormed`). With nothing pending the block waits for the environment
(70_reset_and_hazards.md R384): nothing changes. A request is decoded and executed to its end (`completed`); any other input has
its effect (`State.input`). -/
def step (s : State) : Host.Outcome State Fault Refusal :=
  s.unlessIllFormed <|
    match s.pending with
    | [] => .next s
    | .request r :: rest =>
      match decode r with
      | .ok i => completed i (exec i { s with pending := rest })
      | .error e => .refused (refusalOf e)
    | input :: rest => .next (State.input { s with pending := rest } input)

/-- The state with a row's instruction as the environment's next request, so that the next step decodes and runs it. -/
def State.withFetchWord (s : State) (nbits w : Nat) : State :=
  { s with pending := .request (tableRequest nbits w) :: s.pending }

end Sys2Proof.Machine
end

