-- ==== Sys2Proof/Safety.lean ====
section
/-! DEFINITION. The terms claims about runs use: accepted frames (30_encoding.md R148), the receiver's conditions (41_receiver.md
R202), the invariants of 10_state.md R92 and the global alarm's meaning (R73). -/

namespace Sys2Proof.Machine

/-- The XOR of all eight bytes; zero exactly when the checksum is right (40_codec.md R174). -/
def xorAll (F : Frame) : Byte := F[0] ^^^ F[1] ^^^ F[2] ^^^ F[3] ^^^ F[4] ^^^ F[5] ^^^ F[6] ^^^ F[7]

/-- Byte 0 passes the first-byte validation (41_receiver.md R205): the supported version, this node's address or broadcast. -/
def FirstByteGood (cfg : Config) (b : Byte) : Prop :=
  b.toNat / 16 = cfg.protoVersion.toNat ∧ (b.toNat % 16 = cfg.ownAddr.toNat ∨ b.toNat % 16 = 0)

/-- An accepted frame for this receiver (30_encoding.md R148). -/
def Accepted (cfg : Config) (F : Frame) : Prop := FirstByteGood cfg F[0] ∧ xorAll F = 0#8

/-- The condition "listening idle" of 41_receiver.md R202. -/
def Receiver.ListeningIdle (r : Receiver) : Prop := r.rxArmed = true ∧ r.rxState = .idle ∧ r.rxMsgValid = false

/-- 10_state.md R92 items 1 to 4 and 6, and the label's capacity (R62). Item 7 is the slot file's shape; item 5 is
`Receiver.GlobalOk`. -/
structure Receiver.Inv (cfg : Config) (r : Receiver) : Prop where
  /-- Item 1; `rx_count` ≤ 7 is its type. -/
  idle_iff : r.rxState = .idle ↔ r.rxCount = 0
  /-- Item 2. -/
  held_idle : r.rxMsgValid = true → r.rxArmed = false ∧ r.rxState = .idle
  /-- Item 3. -/
  assembling_first : r.rxState = .assembling → r.rxArmed = true ∧ FirstByteGood cfg r.rxBuf[0]
  /-- Item 4. -/
  held_accepted : r.rxMsgValid = true → Accepted cfg r.rxBuf
  /-- Item 6; `alarm` ≤ 6 is its type. -/
  received_le_sent : ∀ i m, r.slot? i = some m → m.received ≤ m.sent
  /-- R62. -/
  label_fits : ∀ i m, r.slot? i = some m → m.label.length ≤ cfg.labelMax

/-- `global_alarm` is the maximum alarm over the valid slots, `None` when there is none (10_state.md R73). -/
structure Receiver.GlobalOk (r : Receiver) : Prop where
  above : ∀ i m, r.slot? i = some m → m.alarm.code ≤ r.globalAlarm.code
  attained : r.globalAlarm = .noAlarm ∨ ∃ i m, r.slot? i = some m ∧ m.alarm = r.globalAlarm

/-- The operations of the sensor personality (00_scope.md R3, 42_transmitter.md). -/
def sensorOperation : Instr → Bool
  | .txSend _ _ _ | .txSleep _ | .txWakeup _ | .battSample _ | .retSave => true
  | .codecEncode _ | .codecDecode _ | .checksum _ | .checksumOk _ | .versionOk _ | .nextSeq _ | .getf _ _ | .setf _ _ => false
  | .rxByte _ _ | .rxTick _ | .rxService _ _ | .msgAvail | .takeMsg _ | .rxArm => false
  | .mbApply _ _ _ _ | .mbPendFire _ _ | .mbHealth _ _ | .mbAck _ | .mbReliability _ => false
  | .regLookupOrCreate _ _ | .regDelete _ _ | .regDispatch _ _ | .regRecompute => false
  | .regAck _ _ | .regRollcall _ | .regTimers _ | .regEnum | .regLoad _ => false
  | .frmBoot _ _ _ | .frmOpen _ _ | .frmClosed _ _ => false

/-- The operations that are pure reads (20_memory.md R113, R170): the codec, `MSG_AVAIL`, `MB_RELIABILITY`, `REG_ENUM`. -/
def pureRead : Instr → Bool
  | .codecEncode _ | .codecDecode _ | .checksum _ | .checksumOk _ | .versionOk _ | .nextSeq _ | .getf _ _ | .setf _ _ => true
  | .msgAvail | .mbReliability _ | .regEnum => true
  | .rxByte _ _ | .rxTick _ | .rxService _ _ | .takeMsg _ | .rxArm => false
  | .txSend _ _ _ | .txSleep _ | .txWakeup _ | .battSample _ | .retSave => false
  | .mbApply _ _ _ _ | .mbPendFire _ _ | .mbHealth _ _ | .mbAck _ => false
  | .regLookupOrCreate _ _ | .regDelete _ _ | .regDispatch _ _ | .regRecompute => false
  | .regAck _ _ | .regRollcall _ | .regTimers _ | .regLoad _ => false
  | .frmBoot _ _ _ | .frmOpen _ _ | .frmClosed _ _ => false

/-- What can change a mailbox's alarm: the columns of 43_mailbox_state.md R304, with the mailboxes each acts on. -/
inductive Stimulus where
  /-- A frame of the class of these two bits, for this id. -/
  | frame (id : MailboxId) (boot door : Bool)
  /-- The pending timers are looked at. -/
  | timer (target : AckTarget)
  /-- The health check. -/
  | health (target : AckTarget)
  /-- The acknowledgement. -/
  | ack (target : AckTarget)
  deriving DecidableEq, Repr

/-- The stimulus an operation is, if it is one. -/
def stimulus : Instr → Option Stimulus
  | .mbApply f _ _ _ | .regDispatch f _ => some (.frame f.id f.boot f.door)
  | .frmBoot o door _ => some (.frame o.id true door)
  | .frmOpen o _ => some (.frame o.id false true)
  | .frmClosed o _ => some (.frame o.id false false)
  | .mbPendFire i _ => some (.timer (.one i))
  | .regTimers _ => some (.timer .all)
  | .mbHealth i _ => some (.health (.one i))
  | .regRollcall _ => some (.health .all)
  | .mbAck i => some (.ack (.one i))
  | .regAck _ target => some (.ack target)
  | .codecEncode _ | .codecDecode _ | .checksum _ | .checksumOk _ | .versionOk _ | .nextSeq _ | .getf _ _ | .setf _ _ => none
  | .rxByte _ _ | .rxTick _ | .rxService _ _ | .msgAvail | .takeMsg _ | .rxArm => none
  | .txSend _ _ _ | .txSleep _ | .txWakeup _ | .battSample _ | .retSave => none
  | .mbReliability _ | .regLookupOrCreate _ _ | .regDelete _ _ | .regRecompute | .regEnum | .regLoad _ => none

/-- Whether a target takes in a mailbox. -/
def targets (target : AckTarget) (j : MailboxId) : Prop := target = .all ∨ target = .one j

/-- From `s` to `t` only slot `id`, the receiver's events, the global alarm and the result change, and the global alarm is the
maximum. -/
def WritesOneSlot (id : MailboxId) (s t : State) : Prop :=
  (∀ j, j ≠ id → t.rx.slot? j = s.rx.slot? j) ∧ t.rx.GlobalOk ∧
  t = { s with
    result := t.result
    rx := { s.rx with slots := t.rx.slots, events := t.rx.events, globalAlarm := t.rx.globalAlarm } }

/-- 60_exceptions.md R349 for an operation that dispatches a frame of mailbox `id`: if its frame goes to a mailbox, the store's two
answers decide only whether `PersistFail` follows the write of a creation and the write of the application; if not, nothing
depends on what comes with it. -/
def StoreAnswersOnlyEmit (k : DispatchEnv → Instr) (id : MailboxId) (battery : Battery) (goes : Prop) (s : State) : Prop :=
  (goes → ∀ (now : Time) (wall : Wall), ∃ (t : State) (between : List Event), ∀ createFails applyFails : Bool,
    exec (k ⟨now, wall, createFails, applyFails⟩) s = .next { t with rx := { t.rx with
      events := s.rx.events ++
        (if s.rx.slot? id = none then persistEvents (.persistWrite id [] none 127#7) id createFails else []) ++ between ++
        persistEvents (.persistWrite id ((s.rx.slot? id).elim [] Slot.label) wall battery) id applyFails } }) ∧
  (¬ goes → ∀ e e' : DispatchEnv, exec (k e) s = exec (k e') s)

end Sys2Proof.Machine
end

