-- ==== Sys2Proof/Certificates/Slice0/Obligations.lean ====
section
/-! DEFINITION. What is stated about the model, for the provers. Each statement's docstring names the rules of spec/ it
formalises. What a discard leaves in `rx_buf` and `rx_t0` (log 15), and `pend_t0` while disarmed, have no meaning in the spec and
are left open; where a free value is drawn a statement holds for every value. -/

open Sys2Proof Sys2Proof.Machine

/-! ### MessageCodec -/

/-- R171: `ENCODE` writes the eight bytes its pseudocode gives, and changes nothing but the result (R170). -/
def Obligations.EncodeWritesFrameFormat : Prop :=
  ∀ (f : Fields) (s : State), ∃ F : Frame,
    exec (.codecEncode f) s = .next { s with result := .frame F } ∧
    F[0].toNat = s.cfg.protoVersion.toNat * 16 + f.raddr.toNat ∧
    F[1].toNat = f.id.toNat * 16 + f.boot.toNat * 8 + f.online.toNat * 4 + f.door.toNat * 2 + 0 ∧
    F[2].toNat = f.seq.toNat / 256 ∧ F[3].toNat = f.seq.toNat % 256 ∧
    F[4].toNat = f.uptime.toNat / 256 ∧ F[5].toNat = f.uptime.toNat % 256 ∧
    F[6].toNat = f.battery.toNat * 2 + 0 ∧
    F[7] = F[0] ^^^ F[1] ^^^ F[2] ^^^ F[3] ^^^ F[4] ^^^ F[5] ^^^ F[6]

/-- R172: `DECODE` tests the version, then the checksum, and else returns the fields its pseudocode reads. -/
def Obligations.DecodeReadsFrameFormat : Prop :=
  ∀ (F : Frame) (s : State), ∃ f : Fields,
    (f.raddr.toNat = F[0].toNat % 16 ∧ f.id.toNat = F[1].toNat / 16 ∧
      f.boot = decide (F[1].toNat / 8 % 2 = 1) ∧ f.online = decide (F[1].toNat / 4 % 2 = 1) ∧
      f.door = decide (F[1].toNat / 2 % 2 = 1) ∧ f.seq.toNat = F[2].toNat * 256 + F[3].toNat ∧
      f.uptime.toNat = F[4].toNat * 256 + F[5].toNat ∧ f.battery.toNat = F[6].toNat / 2) ∧
    exec (.codecDecode F) s = .next { s with
      result := .decoded
        (if F[0].toNat / 16 ≠ s.cfg.protoVersion.toNat then .versionMismatch
         else if F[0] ^^^ F[1] ^^^ F[2] ^^^ F[3] ^^^ F[4] ^^^ F[5] ^^^ F[6] ≠ F[7] then .checksumMismatch
         else .ok f) }

/-- R181: decoding an encoding gives the fields back and its checksum is right; encoding a decoding gives the frame back exactly
when both reserved bits are 0. -/
def Obligations.CodecRoundTrip : Prop :=
  (∀ (f : Fields) (s : State), ∃ F : Frame,
    exec (.codecEncode f) s = .next { s with result := .frame F } ∧
    exec (.codecDecode F) s = .next { s with result := .decoded (.ok f) } ∧
    exec (.checksumOk F) s = .next { s with result := .bool true }) ∧
  (∀ (F : Frame) (f : Fields) (s : State),
    exec (.codecDecode F) s = .next { s with result := .decoded (.ok f) } →
    ∃ G : Frame, exec (.codecEncode f) s = .next { s with result := .frame G } ∧
      (G = F ↔ F[1].toNat % 2 = 0 ∧ F[6].toNat % 2 = 0))

/-- R173, R174, R175: the three one-frame tests. -/
def Obligations.ChecksumAndVersionTests : Prop :=
  ∀ (F : Frame) (s : State),
    exec (.checksum F) s =
      .next { s with result := .byte (F[0] ^^^ F[1] ^^^ F[2] ^^^ F[3] ^^^ F[4] ^^^ F[5] ^^^ F[6]) } ∧
    exec (.checksumOk F) s =
      .next { s with result := .bool (decide (F[0] ^^^ F[1] ^^^ F[2] ^^^ F[3] ^^^ F[4] ^^^ F[5] ^^^ F[6] = F[7])) } ∧
    exec (.versionOk F) s = .next { s with result := .bool (decide (F[0].toNat / 16 = s.cfg.protoVersion.toNat)) }

/-- R182: from a frame with a right checksum, any single flipped bit is detected, and in general a change goes unseen exactly
when its difference bytes XOR to zero. -/
def Obligations.SingleBitFlipDetected : Prop :=
  ∀ (F : Frame) (s : State), exec (.checksumOk F) s = .next { s with result := .bool true } →
    (∀ (k : Fin 8) (b : Nat), b < 8 →
      exec (.checksumOk (F.set k.val (F[k] ^^^ 1#8 <<< b))) s = .next { s with result := .bool false }) ∧
    (∀ G : Frame, exec (.checksumOk G) s = .next { s with
      result := .bool (decide ((F[0] ^^^ G[0]) ^^^ (F[1] ^^^ G[1]) ^^^ (F[2] ^^^ G[2]) ^^^ (F[3] ^^^ G[3]) ^^^
        (F[4] ^^^ G[4]) ^^^ (F[5] ^^^ G[5]) ^^^ (F[6] ^^^ G[6]) ^^^ (F[7] ^^^ G[7]) = 0#8)) })

/-- R176: the checksum's weakness is kept: permuting the bytes, and flipping one bit position in an even number of bytes, go
unseen. -/
def Obligations.ChecksumWeaknessKept : Prop :=
  ∀ (F : Frame) (s : State), exec (.checksumOk F) s = .next { s with result := .bool true } →
    (∀ σ : Equiv.Perm (Fin 8),
      exec (.checksumOk (Vector.ofFn fun i => F[σ i])) s = .next { s with result := .bool true }) ∧
    (∀ (T : Finset (Fin 8)) (b : Nat), b < 8 → T.card % 2 = 0 →
      exec (.checksumOk (Vector.ofFn fun i => if i ∈ T then F[i] ^^^ 1#8 <<< b else F[i])) s =
        .next { s with result := .bool true })

/-- R177 and R178: one more, 2 after 0xFFFF; never 0; parity always alternates. -/
def Obligations.NextSeqRule : Prop :=
  ∀ (c : SeqNo) (s : State), ∃ n : SeqNo, exec (.nextSeq c) s = .next { s with result := .seq n } ∧
    n.toNat = (if c.toNat = 65535 then 2 else c.toNat + 1) ∧ n.toNat ≠ 0 ∧ n.toNat % 2 ≠ c.toNat % 2

/-- R179: each accessor returns the bits of its field, with no test of version or checksum. -/
def Obligations.GetfReadsFields : Prop :=
  ∀ (F : Frame) (s : State),
    exec (.getf F .ver) s = .next { s with result := .value (.ver (.ofNat 4 (F[0].toNat / 16))) } ∧
    exec (.getf F .raddr) s = .next { s with result := .value (.raddr (.ofNat 4 (F[0].toNat % 16))) } ∧
    exec (.getf F .id) s = .next { s with result := .value (.id (.ofNat 4 (F[1].toNat / 16))) } ∧
    exec (.getf F .boot) s = .next { s with result := .value (.boot (decide (F[1].toNat / 8 % 2 = 1))) } ∧
    exec (.getf F .online) s = .next { s with result := .value (.online (decide (F[1].toNat / 4 % 2 = 1))) } ∧
    exec (.getf F .door) s = .next { s with result := .value (.door (decide (F[1].toNat / 2 % 2 = 1))) } ∧
    exec (.getf F .rsv1) s = .next { s with result := .value (.rsv1 (decide (F[1].toNat % 2 = 1))) } ∧
    exec (.getf F .seq) s = .next { s with result := .value (.seq (.ofNat 16 (F[2].toNat * 256 + F[3].toNat))) } ∧
    exec (.getf F .uptime) s = .next { s with result := .value (.uptime (.ofNat 16 (F[4].toNat * 256 + F[5].toNat))) } ∧
    exec (.getf F .battery) s = .next { s with result := .value (.battery (.ofNat 7 (F[6].toNat / 2))) } ∧
    exec (.getf F .rsv2) s = .next { s with result := .value (.rsv2 (decide (F[6].toNat % 2 = 1))) } ∧
    exec (.getf F .cksum) s = .next { s with result := .value (.cksum F[7]) }

/-- R180: the named field reads as the value, every other field (and so every other bit) as before; the checksum is not
recomputed. -/
def Obligations.SetfReplacesOneField : Prop :=
  ∀ (F : Frame) (v : FieldValue) (s : State), ∃ G : Frame,
    exec (.setf F v) s = .next { s with result := .frame G } ∧
    exec (.getf G v.fieldName) s = .next { s with result := .value v } ∧
    ∀ n : FieldName, n ≠ v.fieldName → exec (.getf G n) s = exec (.getf F n) s

/-! ### FrameReceiver -/

/-- R203 step 1, R204 and R205: a byte offered while not listening is declined; in listening idle any byte starts a frame and is
validated at once, version before address. What a rejected byte leaves in `rx_buf` and `rx_t0` has no meaning and is left open. -/
def Obligations.RxByteFirstByte : Prop :=
  ∀ (b : Byte) (now : Time) (s : State),
    (s.rx.rxArmed = false → exec (.rxByte b now) s = .next { s with result := .notListening }) ∧
    (s.rx.rxArmed = true → s.rx.rxState = .idle →
      ∃ t, exec (.rxByte b now) s = .next t ∧
        t = { s with result := .accepted, rx := t.rx } ∧
        (if b.toNat / 16 ≠ s.cfg.protoVersion.toNat then
          t.rx = { s.rx with
            rxBuf := t.rx.rxBuf, rxT0 := t.rx.rxT0, rxState := .idle, rxCount := 0
            events := s.rx.events ++ [.condition (.badVersion b)] }
        else if b.toNat % 16 ≠ s.cfg.ownAddr.toNat ∧ b.toNat % 16 ≠ 0 then
          t.rx = { s.rx with
            rxBuf := t.rx.rxBuf, rxT0 := t.rx.rxT0, rxState := .idle, rxCount := 0
            events := s.rx.events ++ [.condition (.badAddress b)] }
        else
          t.rx = { s.rx with rxBuf := s.rx.rxBuf.set 0 b, rxT0 := now, rxState := .assembling, rxCount := 1 }))

/-- R206 and R207: while assembling, the byte goes to `rx_buf[rx_count]`; the eighth completes the frame, which is exposed and
listening stops, or is dropped with `BadChecksum` and listening goes on. What a dropped frame leaves in `rx_buf` and
`rx_t0` has no meaning and is left open. -/
def Obligations.RxByteContinuesAndCompletes : Prop :=
  ∀ (b : Byte) (now : Time) (s : State), s.rx.rxArmed = true → s.rx.rxState = .assembling →
    (s.rx.rxCount ≠ 7 →
      exec (.rxByte b now) s = .next { s with result := .accepted, rx :=
        { s.rx with rxBuf := s.rx.rxBuf.set s.rx.rxCount.val b, rxCount := s.rx.rxCount + 1 } }) ∧
    (s.rx.rxCount = 7 → xorAll (s.rx.rxBuf.set 7 b) = 0#8 →
      exec (.rxByte b now) s = .next { s with result := .accepted, rx :=
        { s.rx with rxBuf := s.rx.rxBuf.set 7 b, rxMsgValid := true, rxArmed := false, rxState := .idle, rxCount := 0 } }) ∧
    (s.rx.rxCount = 7 → xorAll (s.rx.rxBuf.set 7 b) ≠ 0#8 →
      ∃ buf t0, exec (.rxByte b now) s = .next { s with
        result := .accepted
        rx := { s.rx with
          rxBuf := buf, rxT0 := t0, rxState := .idle, rxCount := 0
          events := s.rx.events ++ [.condition (.badChecksum (s.rx.rxBuf.set 7 b))] } })

/-- R209: the deadline is passed at or after `rx_t0 + RX_TIMEOUT_MS` modulo 2^32, and only while assembling; then the partial frame
is dropped with `RxTimeout`, and what it leaves in `rx_buf` and `rx_t0` has no meaning and is left open. Else nothing changes. -/
def Obligations.RxTickDeadline : Prop :=
  ∀ (now : Time) (s : State),
    if s.rx.rxState = .assembling ∧ s.cfg.rxTimeoutMs ≤ (now.toNat + 2 ^ 32 - s.rx.rxT0.toNat) % 2 ^ 32 then
      ∃ buf t0, exec (.rxTick now) s = .next { s with
        result := .expired
        rx := { s.rx with
          rxBuf := buf, rxT0 := t0, rxState := .idle, rxCount := 0
          events := s.rx.events ++ [.condition (.rxTimeout s.rx.rxCount.val)] } }
    else exec (.rxTick now) s = .next { s with result := .notExpired }

/-- R210: `RX_SERVICE` offers the bytes in order, stops at the first one declined, then ticks once; it returns how many were
taken. Every call completes and touches no mailbox. -/
def Obligations.RxServiceBytesThenTick : Prop :=
  (∀ (bytes : List Byte) (now : Time) (s : State), ∃ t n,
    exec (.rxService bytes now) s = .next t ∧ t.result = .consumed n ∧ n ≤ bytes.length ∧
    t = { s with
      result := t.result
      rx := { t.rx with slots := s.rx.slots, globalAlarm := s.rx.globalAlarm, draws := s.rx.draws } }) ∧
  (∀ (bytes : List Byte) (now : Time) (s t : State), bytes = [] ∨ s.rx.rxArmed = false →
    exec (.rxTick now) s = .next t → exec (.rxService bytes now) s = .next { t with result := .consumed 0 }) ∧
  (∀ (b : Byte) (bytes : List Byte) (now : Time) (s u t : State) (n : Nat), s.rx.rxArmed = true →
    exec (.rxByte b now) s = .next u → exec (.rxService bytes now) u = .next t → t.result = .consumed n →
    exec (.rxService (b :: bytes) now) s = .next { t with result := .consumed (n + 1) })

/-- R211, R212, R213: `MSG_AVAIL` reads `rx_msg_valid`; `TAKE_MSG` hands out, once, the fields `DECODE` reads from the held frame
(one that passed validation: R59), and re-arms if asked; with nothing held it changes nothing. Arming is refused while a message
is held, and else makes the receiver listen, a partial frame untouched. -/
def Obligations.TakeMsgHandsOutOnce : Prop :=
  ∀ (rearm : Bool) (s : State),
    exec .msgAvail s = .next { s with result := .bool s.rx.rxMsgValid } ∧
    (s.rx.rxMsgValid = false → exec (.takeMsg rearm) s = .next { s with result := .message none }) ∧
    (s.rx.rxMsgValid = true → s.rx.rxBuf[0].toNat / 16 = s.cfg.protoVersion.toNat → xorAll s.rx.rxBuf = 0#8 →
      ∃ f : Fields, exec (.codecDecode s.rx.rxBuf) s = .next { s with result := .decoded (.ok f) } ∧
        exec (.takeMsg rearm) s = .next { s with result := .message (some f), rx :=
          { s.rx with rxMsgValid := false, rxArmed := if rearm then true else s.rx.rxArmed } }) ∧
    (s.rx.rxMsgValid = true → exec .rxArm s = .next { s with result := .armRefused }) ∧
    (s.rx.rxMsgValid = false → exec .rxArm s = .next { s with result := .armed, rx := { s.rx with rxArmed := true } })

/-- R214: eight bytes offered in listening idle are exposed as a held message if they are an accepted frame; if the first byte is
good and the checksum wrong they are dropped with `BadChecksum`, and nothing is exposed. -/
def Obligations.AcceptedFrameIsExposed : Prop :=
  ∀ (F : Frame) (now : Time) (s : State), s.rx.ListeningIdle →
    (Accepted s.cfg F →
      exec (.rxService F.toList now) s = .next { s with result := .consumed 8, rx :=
        { s.rx with rxBuf := F, rxT0 := now, rxCount := 0, rxArmed := false, rxMsgValid := true } }) ∧
    (FirstByteGood s.cfg F[0] → ¬ Accepted s.cfg F →
      ∃ buf t0, exec (.rxService F.toList now) s = .next { s with result := .consumed 8, rx :=
        { s.rx with rxBuf := buf, rxT0 := t0, rxCount := 0, events := s.rx.events ++ [.condition (.badChecksum F)] } })

/-- R121, R216: once a frame is held, no operation but `TAKE_MSG` changes it or lets another in. -/
def Obligations.HeldFrameCannotChange : Prop :=
  ∀ (i : Instr) (s t : State), s.rx.rxMsgValid = true → s.rx.rxArmed = false → s.rx.rxState = .idle →
    (∀ rearm, i ≠ .takeMsg rearm) → exec i s = .next t →
    t.rx.rxBuf = s.rx.rxBuf ∧ t.rx.rxMsgValid = true ∧ t.rx.rxArmed = false ∧ t.rx.rxState = .idle

/-! ### FrameTransmitter, battery, retained memory -/

/-- R232: what a send that is neither held nor refused does; the bytes are those `ENCODE` gives for the stamped fields, and the
number sent is never 0. -/
def Obligations.TxSendStampsAndSends : Prop :=
  ∀ (online door : Bool) (now : Time) (s : State),
    ¬ (now.toNat + 2 ^ 32 - s.tx.txBusyT0.toNat) % 2 ^ 32 < s.tx.txBusyDur → s.tx.radioAwake = some true →
    ∃ (n : SeqNo) (F : Frame),
      n.toNat = (if s.tx.txSeq.toNat = 65535 then 2 else s.tx.txSeq.toNat + 1) ∧ n.toNat ≠ 0 ∧
      exec (.codecEncode ⟨s.cfg.txRaddr, s.cfg.txMboxId, s.tx.bootFlag, online, door, n, .ofNat 16 (now.toNat % 65536),
        s.tx.txBatt⟩) s = .next { s with result := .frame F } ∧
      exec (.txSend online door now) s = .next { s with result := .frame F, tx := { s.tx with
        txSeq := n, txSent := s.tx.txSent + 1, txBuf := F, link := s.tx.link ++ F.toList,
        txBusyT0 := now, txBusyDur := s.cfg.txSettleMs } }

/-- R238, R239: while settling the three radio operations are held: nothing changes, and the answer says held (log 8). Time alone
lifts it; then a send with the radio asleep or in the unknown state is refused. -/
def Obligations.RadioOperationsHeldOrRefused : Prop :=
  ∀ (online door : Bool) (now : Time) (s : State),
    ((now.toNat + 2 ^ 32 - s.tx.txBusyT0.toNat) % 2 ^ 32 < s.tx.txBusyDur →
      exec (.txSend online door now) s = .next { s with result := .held } ∧
      exec (.txSleep now) s = .next { s with result := .held } ∧
      exec (.txWakeup now) s = .next { s with result := .held }) ∧
    (¬ (now.toNat + 2 ^ 32 - s.tx.txBusyT0.toNat) % 2 ^ 32 < s.tx.txBusyDur → s.tx.radioAwake ≠ some true →
      exec (.txSend online door now) s = .refused .radioNotAwake)

/-- R235, R236: a power operation that is not held emits its command, records the radio's state and starts its settle delay,
whatever the radio's state was. -/
def Obligations.RadioPowerOperations : Prop :=
  ∀ (now : Time) (s : State), ¬ (now.toNat + 2 ^ 32 - s.tx.txBusyT0.toNat) % 2 ^ 32 < s.tx.txBusyDur →
    exec (.txSleep now) s = .next { s with result := .done, tx := { s.tx with
      events := s.tx.events ++ [.radioPower .sleep], radioAwake := some false,
      txBusyT0 := now, txBusyDur := s.cfg.sleepSettleMs } } ∧
    exec (.txWakeup now) s = .next { s with result := .done, tx := { s.tx with
      events := s.tx.events ++ [.radioPower .wake], radioAwake := some true,
      txBusyT0 := now, txBusyDur := s.cfg.wakeSettleMs } }

/-- R241 to R244: the first reading after a cold boot is dropped; else the mapped reading is stored outright from "unknown", or
moves the stored value by one `EMA_DIV`-th of the difference rounded toward zero, clamped to 0 to 100. -/
def Obligations.BattSampleRule : Prop :=
  ∀ (raw : Int) (s : State), s.cfg.wf = true →
    ∀ pct : Int, pct = (max s.cfg.adcMin (min raw s.cfg.adcMax) - s.cfg.adcMin) * 100 / (s.cfg.adcMax - s.cfg.adcMin) →
    (s.tx.battFirstPending = true →
      exec (.battSample raw) s = .next { s with result := .done, tx := { s.tx with battFirstPending := false } }) ∧
    (s.tx.battFirstPending = false → ∃ b : Battery,
      exec (.battSample raw) s = .next { s with result := .done, tx := { s.tx with txBatt := b } } ∧
      (b.toNat : Int) = if s.tx.txBatt.toNat = 127 then pct
        else max 0 (min ((s.tx.txBatt.toNat : Int) + (pct - s.tx.txBatt.toNat).tdiv s.cfg.emaDiv) 100))

/-- R241, R243: a kept reading leaves a percentage, and from a stored percentage the new value lies between the stored value and
the mapped reading, so that the final clamp never acts. -/
def Obligations.BatteryMovesTowardReading : Prop :=
  ∀ (raw : Int) (s t : State), s.cfg.wf = true → s.tx.battFirstPending = false →
    exec (.battSample raw) s = .next t →
    ∀ pct : Int, pct = (max s.cfg.adcMin (min raw s.cfg.adcMax) - s.cfg.adcMin) * 100 / (s.cfg.adcMax - s.cfg.adcMin) →
    0 ≤ pct ∧ pct ≤ 100 ∧ t.tx.txBatt.toNat ≤ 100 ∧
    (s.tx.txBatt.toNat ≤ 100 →
      (t.tx.txBatt.toNat : Int) = s.tx.txBatt.toNat + (pct - s.tx.txBatt.toNat).tdiv s.cfg.emaDiv ∧
      min (s.tx.txBatt.toNat : Int) pct ≤ t.tx.txBatt.toNat ∧ (t.tx.txBatt.toNat : Int) ≤ max (s.tx.txBatt.toNat : Int) pct)

/-- R246: `RET_SAVE` copies the two values into retained memory. -/
def Obligations.RetSaveCopies : Prop :=
  ∀ s : State, exec .retSave s =
    .next { s with result := .done, tx := { s.tx with retSeq := s.tx.txSeq, retBatt := s.tx.txBatt } }

/-- R247, R383: a sensor node start restores the retained values after a wake from sleep and starts afresh after any other boot;
what the spec leaves unspecified (`tx_buf`, `tx_busy_t0`, and the retained slots after another boot) is left open. That the node's
event queue starts empty and the bytes on the link stay is the model's choice (log 18). In what is no configuration no step is taken
(U22; `StepRunsDecodedRequest`). -/
def Obligations.SensorNodeStart : Prop :=
  ∀ (rest : List Input) (s : State), s.cfg.wf = true →
    (∃ buf t0 d, step { s with pending := .sensorStart .wakeFromSleep :: rest } = .next { s with pending := rest, tx :=
      { txBuf := buf, txSeq := s.tx.retSeq, txSent := 0, txBatt := s.tx.retBatt, battFirstPending := false,
        radioAwake := none, txBusyT0 := t0, txBusyDur := 0, retSeq := s.tx.retSeq, retBatt := s.tx.retBatt,
        bootFlag := false, events := [], link := s.tx.link, draws := d } }) ∧
    (∃ buf t0 rs rb d, step { s with pending := .sensorStart .other :: rest } = .next { s with pending := rest, tx :=
      { txBuf := buf, txSeq := 0#16, txSent := 0, txBatt := 127#7, battFirstPending := true,
        radioAwake := none, txBusyT0 := t0, txBusyDur := 0, retSeq := rs, retBatt := rb,
        bootFlag := true, events := [], link := s.tx.link, draws := d } })

/-- R246, R247, R232: the number saved before sleep is the one the next wake's first send goes on from. -/
def Obligations.SequenceSurvivesSleep : Prop :=
  ∀ (s s1 s2 s3 s4 : State) (rest : List Input) (online door : Bool) (t1 t2 : Time),
    exec .retSave s = .next s1 →
    step { s1 with pending := .sensorStart .wakeFromSleep :: rest } = .next s2 →
    exec (.txWakeup t1) s2 = .next s3 →
    exec (.txSend online door t2) s3 = .next s4 → s4.result ≠ .held →
    s4.tx.txSeq.toNat = (if s.tx.txSeq.toNat = 65535 then 2 else s.tx.txSeq.toNat + 1) ∧ s4.tx.txBatt = s.tx.txBatt

/-! ### MailboxState -/

/-- R262, R270 to R276, R280 to R287: the whole of `MB_APPLY`: refused on a slot that is not valid (or id 0); on a valid one the
loss accounting, snapshot, alarm transition of the frame's class, bounce, pending timer, events in order, and the result. Nothing
else changes; `pend_t0` of a disarmed timer is left open. -/
def Obligations.MbApplyRule : Prop :=
  ∀ (f : Fields) (now : Time) (wall : Wall) (fails : Bool) (s : State),
    (s.rx.slot? f.id = none → exec (.mbApply f now wall fails) s = .refused (.slotNotRegistered f.id)) ∧
    ∀ (m : Slot), s.rx.slot? f.id = some m → ∀ (expected lost events : Nat) (desync bounce : Bool) (after : Severity),
    expected = (if m.seq.toNat = 65535 then 2 else m.seq.toNat + 1) →
    lost = (if f.boot then 0 else (f.seq.toNat + 65536 - expected) % 65536) →
    desync = (!f.boot && decide (s.cfg.lossSanityMax < lost)) →
    events = (if 0 < lost then (lost - (f.seq.toNat + 1) % 2) / 2 else 0) →
    bounce = (!f.boot && !f.door && decide (f.uptime.toNat < s.cfg.bounceMs)) →
    after = (if f.boot then .booted else if f.door then (if m.alarm = .doorOpenNow then .doorLeftOpen else .doorOpenNow)
      else .doorFlipped) →
    ∃ (t : State) (p : Time),
      exec (.mbApply f now wall fails) s = .next t ∧
      t.result = .applied ⟨m.alarm, after, lost, desync, events, bounce⟩ ∧
      (f.online = true → p = now) ∧
      t.rx.slot? f.id = some { m with
        sent := if f.boot || desync then m.sent else m.sent + lost + 1
        received := if f.boot || desync then m.received else m.received + 1
        boot := f.boot, online := f.online, door := f.door, battery := f.battery, seq := f.seq, lastSeen := wall
        alarm := after, voiceReported := bounce, pendArmed := f.online, pendT0 := p } ∧
      (∀ j, j ≠ f.id → t.rx.slot? j = s.rx.slot? j) ∧
      t.rx.events = s.rx.events ++
        (if desync then [.condition (.seqDesync f.id lost)] else []) ++
        (if 0 < events then [.notifyLostMessages events] else []) ++
        [.notifyEvent f.id f.uptime bounce, .persistWrite f.id m.label wall f.battery] ++
        (if fails then [.condition (.persistFail f.id)] else []) ∧
      t = { s with result := t.result, rx := { s.rx with slots := t.rx.slots, events := t.rx.events } }

/-- R290, R291, R292: the firing of a due pending timer, nothing when it is not due, and the refusal on a slot that is not valid
(or id 0). -/
def Obligations.MbPendFireRule : Prop :=
  ∀ (i : MailboxId) (now : Time) (s : State),
    (s.rx.slot? i = none → exec (.mbPendFire i now) s = .refused (.slotNotRegistered i)) ∧
    ∀ (m : Slot), s.rx.slot? i = some m →
    ∃ t, exec (.mbPendFire i now) s = .next t ∧
      (∀ j, j ≠ i → t.rx.slot? j = s.rx.slot? j) ∧
      t = { s with result := t.result, rx := { s.rx with slots := t.rx.slots, events := t.rx.events } } ∧
      if m.pendArmed = true ∧ s.cfg.pendingTimeoutMs ≤ (now.toNat + 2 ^ 32 - m.pendT0.toNat) % 2 ^ 32 then
        t.result = .fired ∧ t.rx.events = s.rx.events ++ [.condition (.pendingTimeout i)] ∧
        ∃ (n : SeqNo) (p : Time), n.toNat = (if m.seq.toNat = 65535 then 2 else m.seq.toNat + 1) ∧
          t.rx.slot? i = some { m with
            seq := n, sent := m.sent + 1, pendArmed := false, pendT0 := p
            alarm := if m.alarm = .noAlarm then .noAlarm else .doorFlipped }
      else t.result = .notDue ∧ t.rx.events = s.rx.events ∧ t.rx.slot? i = some m

/-- R294 to R298: the health check: absence, then battery; what each raises, notifies and returns; refused on a slot that is not
valid (or id 0). -/
def Obligations.MbHealthRule : Prop :=
  ∀ (i : MailboxId) (wall : Wall) (s : State),
    (s.rx.slot? i = none → exec (.mbHealth i wall) s = .refused (.slotNotRegistered i)) ∧
    ∀ (m : Slot), s.rx.slot? i = some m → ∀ (absent low : Bool),
    (absent = true ↔ ∃ w l, wall = some w ∧ m.lastSeen = some l ∧ l ≤ w ∧ s.cfg.absenceWindowS < w - l) →
    (low = true ↔ m.battery.toNat ≤ s.cfg.battLowPct) →
    ∃ t, exec (.mbHealth i wall) s = .next t ∧ t.result = .bool (!(absent || low)) ∧
      t.rx.slot? i = some { m with
        alarm := if absent = true ∧ m.alarm.code < 3 then .absent
          else if low = true ∧ m.alarm.code < 2 then .lowBattery else m.alarm
        battReported := m.battReported || low } ∧
      (∀ j, j ≠ i → t.rx.slot? j = s.rx.slot? j) ∧
      t.rx.events = s.rx.events ++ (if absent = true ∧ m.alarm.code < 3 then [.notifyAbsent i] else []) ++
        (if low = true ∧ m.battReported = false then [.notifyLowBattery i] else []) ∧
      t = { s with result := t.result, rx := { s.rx with slots := t.rx.slots, events := t.rx.events } }

/-- R300: an acknowledgement returns the alarm, clears it and the battery-reported flag, and changes nothing else: not the
counters, not last-seen, not the pending timer; refused on a slot that is not valid (or id 0). -/
def Obligations.MbAckRule : Prop :=
  ∀ (i : MailboxId) (s : State),
    (s.rx.slot? i = none → exec (.mbAck i) s = .refused (.slotNotRegistered i)) ∧
    ∀ (m : Slot), s.rx.slot? i = some m →
    ∃ t, exec (.mbAck i) s = .next t ∧ t.result = .severity m.alarm ∧
      t.rx.slot? i = some { m with alarm := .noAlarm, battReported := false } ∧
      (∀ j, j ≠ i → t.rx.slot? j = s.rx.slot? j) ∧
      t = { s with result := t.result, rx := { s.rx with slots := t.rx.slots } }

/-- R302: reliability is `Unknown` while nothing was sent, else `100 × received div sent`, at most 100 while `received` ≤ `sent`;
refused on a slot that is not valid (or id 0). -/
def Obligations.MbReliabilityRule : Prop :=
  ∀ (i : MailboxId) (s : State),
    (s.rx.slot? i = none → exec (.mbReliability i) s = .refused (.slotNotRegistered i)) ∧
    ∀ (m : Slot), s.rx.slot? i = some m →
    (m.sent = 0 → exec (.mbReliability i) s = .next { s with result := .percent none }) ∧
    (0 < m.sent → ∃ p, exec (.mbReliability i) s = .next { s with result := .percent (some p) } ∧
      p * m.sent ≤ 100 * m.received ∧ 100 * m.received < (p + 1) * m.sent ∧ (m.received ≤ m.sent → p ≤ 100))

/-- R260: an `MB_*` operation on id 0 or on a slot that is not valid is refused. -/
def Obligations.MbOperationsRefusedOnInvalidSlot : Prop :=
  ∀ (i : MailboxId) (f : Fields) (now : Time) (wall : Wall) (fails : Bool) (s : State),
    i = 0#4 ∨ s.rx.slot? i = none → f.id = i →
    exec (.mbApply f now wall fails) s = .refused (.slotNotRegistered i) ∧
    exec (.mbPendFire i now) s = .refused (.slotNotRegistered i) ∧
    exec (.mbHealth i wall) s = .refused (.slotNotRegistered i) ∧
    exec (.mbAck i) s = .refused (.slotNotRegistered i) ∧
    exec (.mbReliability i) s = .refused (.slotNotRegistered i)

/-- R261, R304: every way an operation can change a registered mailbox's alarm, with the stimulus it takes: a frame for this mailbox
gives its class's alarm; servicing the timers gives `DoorFlipped` and never leaves `None`; the health check only raises, to `Absent`
or `LowBattery`; an acknowledgement clears. Timers, health check and acknowledgement act on the mailbox they name, or on all. -/
def Obligations.AlarmChangesOnlyByTheTable : Prop :=
  ∀ (i : Instr) (s t : State) (j : MailboxId) (m m' : Slot), exec i s = .next t →
    s.rx.slot? j = some m → t.rx.slot? j = some m' → m'.alarm ≠ m.alarm →
    match stimulus i with
    | none => False
    | some (.frame k boot door) => k = j ∧ m'.alarm =
        (if boot then .booted else if door then (if m.alarm = .doorOpenNow then .doorLeftOpen else .doorOpenNow)
         else .doorFlipped)
    | some (.timer target) => targets target j ∧ m.alarm ≠ .noAlarm ∧ m'.alarm = .doorFlipped
    | some (.health target) => targets target j ∧
        ((m'.alarm = .absent ∧ m.alarm.code < 3) ∨ (m'.alarm = .lowBattery ∧ m.alarm.code < 2))
    | some (.ack target) => targets target j ∧ m'.alarm = .noAlarm

/-- R306, R67: while a mailbox stays registered its counters never decrease, its label never changes, `received` stays at or
below `sent`, and every increment of `received` comes with one of `sent`. -/
def Obligations.CountersOnlyGrow : Prop :=
  ∀ (i : Instr) (s t : State) (j : MailboxId) (m m' : Slot), exec i s = .next t →
    s.rx.slot? j = some m → t.rx.slot? j = some m' →
    m'.label = m.label ∧ m.sent ≤ m'.sent ∧ m.received ≤ m'.received ∧
    m'.received - m.received ≤ m'.sent - m.sent

/-! ### MailboxRegistry -/

/-- R312, R311: id 0 is rejected with `InvalidId`; a valid slot is found; else it is created with the creation values and
persisted as new. `pend_t0` of a new slot is unspecified and left open. -/
def Obligations.LookupOrCreateRule : Prop :=
  ∀ (id : MailboxId) (fails : Bool) (s : State),
    (id = 0#4 → exec (.regLookupOrCreate id fails) s = .next { s with result := .rejected, rx :=
      { s.rx with events := s.rx.events ++ [.condition (.invalidId 0#4)] } }) ∧
    (∀ m, s.rx.slot? id = some m → exec (.regLookupOrCreate id fails) s = .next { s with result := .found }) ∧
    (id ≠ 0#4 → s.rx.slot? id = none → ∃ (t : State) (p : Time),
      exec (.regLookupOrCreate id fails) s = .next t ∧ t.result = .created ∧
      t.rx.slot? id = some ⟨[], false, false, false, 127#7, 0#16, 0, 0, none, .noAlarm, false, p, false, false⟩ ∧
      (∀ j, j ≠ id → t.rx.slot? j = s.rx.slot? j) ∧
      t.rx.events = s.rx.events ++ [.persistWrite id [] none 127#7] ++
        (if fails then [.condition (.persistFail id)] else []) ∧
      t.rx.GlobalOk ∧ (s.rx.GlobalOk → t.rx.globalAlarm = s.rx.globalAlarm) ∧
      t = { s with
        result := t.result
        rx := { s.rx with
          slots := t.rx.slots, events := t.rx.events, globalAlarm := t.rx.globalAlarm, draws := t.rx.draws } })

/-- R313: deletion of a valid slot, and nothing for any other id. -/
def Obligations.DeleteRule : Prop :=
  ∀ (id : MailboxId) (fails : Bool) (s : State),
    (s.rx.slot? id = none → exec (.regDelete id fails) s = .next { s with result := .notFound }) ∧
    (∀ m, s.rx.slot? id = some m → ∃ t,
      exec (.regDelete id fails) s = .next t ∧ t.result = .deleted ∧ t.rx.slot? id = none ∧
      (∀ j, j ≠ id → t.rx.slot? j = s.rx.slot? j) ∧
      t.rx.events = s.rx.events ++ [.persistRemove id] ++ (if fails then [.condition (.persistFail id)] else []) ∧
      t.rx.GlobalOk ∧
      t = { s with
        result := t.result
        rx := { s.rx with
          slots := t.rx.slots, events := t.rx.events, globalAlarm := t.rx.globalAlarm } })

/-- R314, R311: a dispatch is a lookup or creation, the application of the frame, and the recomputation, in that order; a frame
with id 0 is rejected with `InvalidId` and changes no slot. -/
def Obligations.DispatchIsLookupApplyRecompute : Prop :=
  ∀ (f : Fields) (env : DispatchEnv) (s : State),
    (f.id = 0#4 → exec (.regDispatch f env) s = .next { s with result := .rejected, rx :=
      { s.rx with events := s.rx.events ++ [.condition (.invalidId 0#4)] } }) ∧
    (f.id ≠ 0#4 → ∃ (s1 s2 s3 : State) (created : Bool) (r : ApplyResult),
      exec (.regLookupOrCreate f.id env.createFails) s = .next s1 ∧
      s1.result = (if created then .created else .found) ∧
      exec (.mbApply f env.now env.wall env.applyFails) s1 = .next s2 ∧ s2.result = .applied r ∧
      exec .regRecompute s2 = .next s3 ∧
      exec (.regDispatch f env) s = .next { s3 with result := .dispatched created r })

/-- R315: the recomputed global alarm is the maximum over the valid slots, `None` when there is none, and is what is returned. -/
def Obligations.RecomputeIsMaximum : Prop :=
  ∀ s : State, ∃ a, exec .regRecompute s = .next { s with result := .severity a, rx := { s.rx with globalAlarm := a } } ∧
    ({ s.rx with globalAlarm := a } : Receiver).GlobalOk ∧ (s.rx.GlobalOk → a = s.rx.globalAlarm)

/-- R316, R317: acknowledging one mailbox, an unknown one, and all of them; the actor has no effect. -/
def Obligations.AcknowledgeRule : Prop :=
  ∀ (actor : List Byte) (s : State),
    (∀ i, s.rx.slot? i = none → exec (.regAck actor (.one i)) s = .next { s with result := .severity .noAlarm }) ∧
    (∀ i m, s.rx.slot? i = some m → ∃ t, exec (.regAck actor (.one i)) s = .next t ∧ t.result = .severity m.alarm ∧
      t.rx.slot? i = some { m with alarm := .noAlarm, battReported := false } ∧
      (∀ j, j ≠ i → t.rx.slot? j = s.rx.slot? j) ∧ t.rx.GlobalOk ∧
      t = { s with result := t.result, rx := { s.rx with slots := t.rx.slots, globalAlarm := t.rx.globalAlarm } }) ∧
    (∃ t, exec (.regAck actor .all) s = .next t ∧ t.result = .severity s.rx.globalAlarm ∧
      (∀ i, t.rx.slot? i = (s.rx.slot? i).map fun m => { m with alarm := .noAlarm, battReported := false }) ∧
      t.rx.globalAlarm = .noAlarm ∧
      t = { s with result := t.result, rx := { s.rx with slots := t.rx.slots, globalAlarm := t.rx.globalAlarm } })

/-- R318: a rollcall does to every valid slot what `MB_HEALTH` does to it, appends the same events by ascending id, lists the
answers by ascending id, and recomputes the global alarm; slots that are not valid are left alone. -/
def Obligations.RollcallChecksEveryMailbox : Prop :=
  ∀ (wall : Wall) (s : State), ∃ (t : State) (oks : List (MailboxId × Bool)) (new : MailboxId → List Event),
    exec (.regRollcall wall) s = .next t ∧ t.result = .health oks ∧
    (∀ i, s.rx.slot? i = none → t.rx.slot? i = none) ∧
    (∀ i m u, s.rx.slot? i = some m → exec (.mbHealth i wall) s = .next u → t.rx.slot? i = u.rx.slot? i) ∧
    oks.Pairwise (fun a b => a.1.toNat < b.1.toNat) ∧
    (∀ i ok, (i, ok) ∈ oks ↔ ∃ u, exec (.mbHealth i wall) s = .next u ∧ u.result = .bool ok) ∧
    (∀ i u, exec (.mbHealth i wall) s = .next u → u.rx.events = s.rx.events ++ new i) ∧
    t.rx.events = s.rx.events ++ (oks.map fun p => new p.1).flatten ∧
    t.rx.GlobalOk ∧
    t = { s with
      result := t.result
      rx := { s.rx with
        slots := t.rx.slots, events := t.rx.events, globalAlarm := t.rx.globalAlarm } }

/-- R320, R326: servicing the timers does to every valid slot what `MB_PEND_FIRE` does to it, lists the ids that fired, ascending,
and recomputes the global alarm; a slot that is not valid has no timer. -/
def Obligations.TimersFireDueMailboxes : Prop :=
  ∀ (now : Time) (s : State), ∃ (t : State) (is : List MailboxId),
    exec (.regTimers now) s = .next t ∧ t.result = .ids is ∧
    (∀ i, s.rx.slot? i = none → t.rx.slot? i = none) ∧
    (∀ i m u, s.rx.slot? i = some m → exec (.mbPendFire i now) s = .next u → t.rx.slot? i = u.rx.slot? i) ∧
    is.Pairwise (fun a b => a.toNat < b.toNat) ∧
    (∀ i, i ∈ is ↔ ∃ u, exec (.mbPendFire i now) s = .next u ∧ u.result = .fired) ∧
    t.rx.events = s.rx.events ++ is.map (fun i => .condition (.pendingTimeout i)) ∧
    t.rx.GlobalOk ∧
    t = { s with
      result := t.result
      rx := { s.rx with
        slots := t.rx.slots, events := t.rx.events, globalAlarm := t.rx.globalAlarm } }

/-- R322: the enumeration lists exactly the valid slots, each with its record, by ascending id, and changes nothing. -/
def Obligations.EnumerationIsIdOrdered : Prop :=
  ∀ s : State, ∃ rs : List (MailboxId × Slot), exec .regEnum s = .next { s with result := .records rs } ∧
    rs.Pairwise (fun a b => a.1.toNat < b.1.toNat) ∧ ∀ i m, (i, m) ∈ rs ↔ s.rx.slot? i = some m

/-- R324, R325: a load leaves valid slots as they are, makes a slot of each fitting record under a free id, reports each
malformed one, lists the ids loaded, both ascending, and recomputes the global alarm. The answer for id `k + 1` is `probe[k]`; a
record whose label is longer than `LABEL_MAX` is malformed (D44; log 19). Id 0 is not probed, so it is in neither list. -/
def Obligations.LoadRule : Prop :=
  ∀ (probe : Vector ProbeAnswer 15) (s : State), ∃ (t : State) (is bad : List MailboxId),
    exec (.regLoad probe) s = .next t ∧ t.result = .ids is ∧ t.rx.GlobalOk ∧
    is.Pairwise (fun a b => a.toNat < b.toNat) ∧ bad.Pairwise (fun a b => a.toNat < b.toNat) ∧ 0#4 ∉ is ∧ 0#4 ∉ bad ∧
    t.rx.events = s.rx.events ++ bad.map (fun i => .condition (.badRecord i)) ∧
    (∀ i m, s.rx.slot? i = some m → t.rx.slot? i = some m ∧ i ∉ is ∧ i ∉ bad) ∧
    (∀ (k : Fin 15) (i : MailboxId), i = .ofNat 4 (k.val + 1) → s.rx.slot? i = none →
      match probe[k] with
      | .record label lastSeen battery =>
        if label.length ≤ s.cfg.labelMax then
          i ∈ is ∧ i ∉ bad ∧ ∃ p, t.rx.slot? i =
            some ⟨label, false, false, false, battery, 0#16, 0, 0, lastSeen, .noAlarm, false, p, false, false⟩
        else t.rx.slot? i = none ∧ i ∉ is ∧ i ∈ bad
      | .malformed => t.rx.slot? i = none ∧ i ∉ is ∧ i ∈ bad
      | .noRecord => t.rx.slot? i = none ∧ i ∉ is ∧ i ∉ bad) ∧
    t = { s with
      result := t.result
      rx := { s.rx with
        slots := t.rx.slots, events := t.rx.events, globalAlarm := t.rx.globalAlarm, draws := t.rx.draws } }

/-! ### Frame classes -/

/-- R148, R155 to R157, R214: a frame word that breaks an acceptance condition is discarded with the condition, tested in the
order version, address, checksum; no slot and no alarm changes. That a frame word is executed as one operation, and raises one
condition, is the model's (log 7). -/
def Obligations.UnacceptedFrameDiscarded : Prop :=
  ∀ (r : Request) (i : Instr) (F : Frame) (s : State), r.word = F.toList → decode r = .ok i → ¬ Accepted s.cfg F →
    ∃ c, exec i s = .next { s with result := .discarded, rx := { s.rx with events := s.rx.events ++ [.condition c] } } ∧
      c = (if F[0].toNat / 16 ≠ s.cfg.protoVersion.toNat then .badVersion F[0]
        else if F[0].toNat % 16 ≠ s.cfg.ownAddr.toNat ∧ F[0].toNat % 16 ≠ 0 then .badAddress F[0]
        else .badChecksum F)

/-- R145, R148: an accepted frame word is decoded to the class of its boot and door bits and does what dispatching its decoded
fields does. That a frame word is executed as one operation is the model's choice (log 7). -/
def Obligations.AcceptedFrameDispatched : Prop :=
  ∀ (r : Request) (i : Instr) (F : Frame) (f : Fields) (s : State), r.word = F.toList → decode r = .ok i →
    Accepted s.cfg F → exec (.codecDecode F) s = .next { s with result := .decoded (.ok f) } →
    exec i s = exec (.regDispatch f r.operands.env) s ∧
    (∃ t, exec i s = .next t) ∧
    ((∃ o door env, i = .frmBoot o door env) ↔ f.boot = true) ∧
    ((∃ o env, i = .frmOpen o env) ↔ f.boot = false ∧ f.door = true) ∧
    ((∃ o env, i = .frmClosed o env) ↔ f.boot = false ∧ f.door = false)

/-- R281, R282, R283: what an accepted frame of each class makes of a registered mailbox's slot: the alarm transition, the number,
the flags, the counters, the bounce, the battery, last-seen and the pending timer, whose start is `now` where it is armed and is
left open where it is not; every other slot stays. How far the counters grow is `MbApplyRule`'s (R271 to R274). That a frame word is
executed as one operation is the model's choice (log 7). -/
def Obligations.FrameClassTransitions : Prop :=
  ∀ (o : FrameOperands) (env : DispatchEnv) (s : State) (m : Slot), s.rx.slot? o.id = some m →
    (∀ door, Accepted s.cfg (o.bits true door).toFrame → ∃ (t : State) (r : ApplyResult) (p : Time),
      exec (.frmBoot o door env) s = .next t ∧ t.result = .dispatched false r ∧ (o.online = true → p = env.now) ∧
      t.rx.slot? o.id = some { m with
        boot := true, online := o.online, door := door, battery := o.battery, seq := o.seq, lastSeen := env.wall
        alarm := .booted, voiceReported := false, pendArmed := o.online, pendT0 := p } ∧
      WritesOneSlot o.id s t) ∧
    (Accepted s.cfg (o.bits false true).toFrame → ∃ (t : State) (r : ApplyResult) (p : Time) (n k : Nat),
      exec (.frmOpen o env) s = .next t ∧ t.result = .dispatched false r ∧ (o.online = true → p = env.now) ∧
      m.sent ≤ n ∧ m.received ≤ k ∧
      t.rx.slot? o.id = some { m with
        boot := false, online := o.online, door := true, battery := o.battery, seq := o.seq, lastSeen := env.wall
        sent := n, received := k
        alarm := if m.alarm = .doorOpenNow then .doorLeftOpen else .doorOpenNow
        voiceReported := false, pendArmed := o.online, pendT0 := p } ∧
      WritesOneSlot o.id s t) ∧
    (Accepted s.cfg (o.bits false false).toFrame → ∃ (t : State) (r : ApplyResult) (p : Time) (n k : Nat),
      exec (.frmClosed o env) s = .next t ∧ t.result = .dispatched false r ∧ (o.online = true → p = env.now) ∧
      m.sent ≤ n ∧ m.received ≤ k ∧
      t.rx.slot? o.id = some { m with
        boot := false, online := o.online, door := false, battery := o.battery, seq := o.seq, lastSeen := env.wall
        sent := n, received := k
        alarm := .doorFlipped, voiceReported := decide (o.uptime.toNat < s.cfg.bounceMs)
        pendArmed := o.online, pendT0 := p } ∧
      WritesOneSlot o.id s t)

/-- R4, R117, R164: taking an accepted frame from the link byte by byte, then from the receiver, then dispatching it, does to the
registry exactly what the frame's class operation does (log 7). -/
def Obligations.LinkPathRefinesFrameClass : Prop :=
  ∀ (F : Frame) (r : Request) (i : Instr) (now : Time) (s s1 s2 s3 t : State) (f : Fields),
    s.rx.Inv s.cfg → s.rx.ListeningIdle → Accepted s.cfg F → r.word = F.toList → decode r = .ok i →
    exec (.rxService F.toList now) s = .next s1 →
    exec (.takeMsg true) s1 = .next s2 → s2.result = .message (some f) →
    exec (.regDispatch f r.operands.env) s2 = .next s3 →
    exec i s = .next t →
    s3.result = t.result ∧ s3.tx = t.tx ∧ s3.rx.ListeningIdle ∧
    s3.rx = { t.rx with rxBuf := s3.rx.rxBuf, rxT0 := s3.rx.rxT0 }

/-! ### Encodings -/

/-- Decode and encode agree on every operation and every value of every operand (R130, R145, R151; the operand ports are log 1). -/
def Obligations.DecodeInvertsEncode : Prop :=
  ∀ i : Instr, decode (encode i) = .ok i

/-- Every eight bytes are a frame of some class, and encoding what they decode to gives the same eight bytes: no bit of a frame is
dropped (R130, R145, R161). -/
def Obligations.EveryFrameWordReencodes : Prop :=
  ∀ (F : Frame) (o : Operands), ∃ i, decode ⟨F.toList, o⟩ = .ok i ∧ (encode i).word = F.toList

/-- R147: the class of a frame word is the one whose mask and match the 64-bit word fits, and the three are exclusive. How the
table's numbers are read as a request is the model's (log 26). -/
def Obligations.FrameClassMasks : Prop :=
  ∀ (w : BitVec 64) (i : Instr), decodeTableWord 64 w.toNat = some i →
    ((∃ o door env, i = .frmBoot o door env) ↔ w &&& 0x0008000000000000#64 = 0x0008000000000000#64) ∧
    ((∃ o env, i = .frmOpen o env) ↔ w &&& 0x000A000000000000#64 = 0x0002000000000000#64) ∧
    ((∃ o env, i = .frmClosed o env) ↔ w &&& 0x000A000000000000#64 = 0x0000000000000000#64)

/-- Words written out from the spec's encodings decode to what they stand for: V1 and V12 of 95_test_vectors.md, and one command
code per unit (R151); code 0x09 selects no operation. How the table's numbers are read as a request is the model's (log 26). -/
def Obligations.WrittenWordsDecode : Prop :=
  decodeTableWord 64 0x11360005012CA0AF =
    some (.frmOpen ⟨1, 1, 3, true, false, 5, 300, 80, false, 0xAF⟩ ⟨0, none, false, false⟩) ∧
  decodeTableWord 64 0x1138000100789ACA =
    some (.frmBoot ⟨1, 1, 3, false, false, 1, 120, 77, false, 0xCA⟩ false ⟨0, none, false, false⟩) ∧
  decodeTableWord 8 0x06 = some (.nextSeq 0) ∧ decodeTableWord 8 0x13 = some .msgAvail ∧
  decodeTableWord 8 0x24 = some .retSave ∧ decodeTableWord 8 0x33 = some (.mbAck 0) ∧
  decodeTableWord 8 0x43 = some .regRecompute ∧ decodeTableWord 8 0x09 = none

/-! ### The whole machine -/

/-- A step whose next input is a request that decodes to `i` is `exec i` with that input taken, followed, when `i` is one of the four
`MB_*` operations that write a slot directly, by what `REG_RECOMPUTE` does to the global alarm (R260; log 24), the result staying
`i`'s own; what `exec i` refuses the step refuses. With nothing pending nothing changes; a request that selects no operation is
refused (R84, R151, R384; log 2). In a configuration that breaks R36 or a parameter's range no step is taken (U22; log 21). -/
def Obligations.StepRunsDecodedRequest : Prop :=
  ∀ (s : State) (r : Request) (rest : List Input),
    (s.cfg.wf = true →
      (∀ i, decode r = .ok i →
        (writesSlotDirectly i = false →
          step { s with pending := .request r :: rest } = exec i { s with pending := rest }) ∧
        (∀ t, writesSlotDirectly i = true → exec i { s with pending := rest } = .next t → ∃ (u : State) (a : Severity),
          exec .regRecompute t = .next { u with result := .severity a } ∧ u.rx.globalAlarm = a ∧ u.result = t.result ∧
          step { s with pending := .request r :: rest } = .next u) ∧
        (∀ c, exec i { s with pending := rest } = .refused c →
          step { s with pending := .request r :: rest } = .refused c)) ∧
      (∀ e, decode r = .error e → step { s with pending := .request r :: rest } = .refused (refusalOf e)) ∧
      step { s with pending := [] } = .next { s with pending := [] }) ∧
    (s.cfg.wf = false → step s = .refused .illFormedConfiguration)

/-- R381, R383: the values the spec gives both nodes after their power-on node start. That reset is both nodes' power-on is the
model's choice (log 13), as is everything State.reset holds beyond these values (log 12). -/
def Obligations.ResetValues : Prop :=
  State.reset.rx.rxState = .idle ∧ State.reset.rx.rxCount = 0 ∧ State.reset.rx.rxArmed = true ∧
  State.reset.rx.rxMsgValid = false ∧ (∀ i, State.reset.rx.slot? i = none) ∧ State.reset.rx.globalAlarm = .noAlarm ∧
  State.reset.rx.events = [] ∧
  State.reset.tx.bootFlag = true ∧ State.reset.tx.txSeq = 0#16 ∧ State.reset.tx.txBatt = 127#7 ∧
  State.reset.tx.battFirstPending = true ∧ State.reset.tx.txSent = 0 ∧ State.reset.tx.radioAwake = none ∧
  State.reset.tx.txBusyDur = 0

/-- R381, R380: a receiver node start gives the receiver's reset values whatever was there, and touches nothing of the sensor;
`rx_buf` and `rx_t0` are unspecified and left open. In what is no configuration no step is taken (U22; `StepRunsDecodedRequest`). -/
def Obligations.ReceiverNodeStart : Prop :=
  ∀ (rest : List Input) (s : State), s.cfg.wf = true → ∃ (buf : Frame) (t0 : Time) (rx : Receiver) (d : Nat),
    step { s with pending := .receiverStart :: rest } = .next { s with pending := rest, rx := rx } ∧
    rx = { rx with
      rxBuf := buf, rxState := .idle, rxCount := 0, rxT0 := t0, rxArmed := true, rxMsgValid := false
      globalAlarm := .noAlarm, events := [], draws := d } ∧
    ∀ i, rx.slot? i = none

/-- R92 (items 1 to 4 and 6; item 5 is `GlobalAlarmNeverStale`) and the label's capacity (R62): every step keeps them, from every
state that has them. -/
def Obligations.EveryStepKeepsReceiverInvariant : Prop :=
  ∀ s t : State, s.rx.Inv s.cfg → step s = .next t → t.rx.Inv t.cfg

/-- The receiver's invariants and the global alarm's meaning (R92) hold at the values R381 gives after a receiver node start; that
reset is that node start is the model's choice (log 13), as are the values it gives `rx_buf` and `rx_t0` (log 12). The last clause
is about the model's choice of CFG0 as the configuration that stands at reset (log 4): that choice meets R36's constraints. -/
def Obligations.ResetHasInvariants : Prop :=
  State.reset.rx.Inv State.reset.cfg ∧ State.reset.rx.GlobalOk ∧ State.reset.cfg.wf = true

/-- R73, R310, R92 item 5: the global alarm is the maximum over the valid slots after every step, from every state where it is,
whatever the step's input; after an `MB_*` operation issued directly because `REG_RECOMPUTE` follows it (R260; log 24). -/
def Obligations.GlobalAlarmNeverStale : Prop :=
  ∀ s t : State, s.rx.GlobalOk → step s = .next t → t.rx.GlobalOk

/-- R3: the two personalities never share state. A sensor operation leaves the receiver as it was and its outcome does not depend on
it; any other operation leaves the sensor as it was and does not depend on it. -/
def Obligations.PersonalitiesNeverShareState : Prop :=
  (∀ (i : Instr) (s t : State), exec i s = .next t →
    if sensorOperation i then t.rx = s.rx else t.tx = s.tx) ∧
  (∀ (i : Instr) (s t : State) (rx : Receiver) (tx : Sensor), exec i s = .next t →
    if sensorOperation i then exec i { s with rx := rx } = .next { t with rx := rx }
    else exec i { s with tx := tx } = .next { t with tx := tx })

/-- R85, U27: "no state of the block depends on whether an event was consumed": with any other contents of the two nodes' event
queues (log 18 for the sensor's) an operation gives the same state and the same result, and appends the same events. -/
def Obligations.EventQueueHasNoEffect : Prop :=
  ∀ (i : Instr) (s t : State), exec i s = .next t →
    ∃ new new', t.rx.events = s.rx.events ++ new ∧ t.tx.events = s.tx.events ++ new' ∧
      ∀ q q' : List Event,
        exec i { s with rx := { s.rx with events := q }, tx := { s.tx with events := q' } } =
          .next { t with rx := { t.rx with events := q ++ new }, tx := { t.tx with events := q' ++ new' } }

/-- R349: no state depends on whether the store fails a write: only the event `PersistFail` differs, and it stands directly
after the write or removal that failed. Of the operations that dispatch a frame: for each pair of answers of the store, the same
state and the same other events. That a frame word is executed as one operation, which dispatches an accepted frame with its
record writes and discards any other with nothing written, is the model's choice (log 7); the last three clauses rest on it. -/
def Obligations.StoreFailureOnlyEmits : Prop :=
  ∀ (s : State),
    (∀ f now wall t, exec (.mbApply f now wall false) s = .next t →
      exec (.mbApply f now wall true) s = .next { t with rx := { t.rx with
        events := t.rx.events ++ [.condition (.persistFail f.id)] } }) ∧
    (∀ id t, id ≠ 0#4 → exec (.regLookupOrCreate id false) s = .next t → t.result = .created →
      exec (.regLookupOrCreate id true) s = .next { t with rx := { t.rx with
        events := t.rx.events ++ [.condition (.persistFail id)] } }) ∧
    (∀ id t, exec (.regDelete id false) s = .next t → t.result = .deleted →
      exec (.regDelete id true) s = .next { t with rx := { t.rx with
        events := t.rx.events ++ [.condition (.persistFail id)] } }) ∧
    (∀ f, StoreAnswersOnlyEmit (.regDispatch f) f.id f.battery (f.id ≠ 0#4) s) ∧
    (∀ o door, StoreAnswersOnlyEmit (.frmBoot o door) o.id o.battery
      (o.id ≠ 0#4 ∧ Accepted s.cfg (o.bits true door).toFrame) s) ∧
    (∀ o, StoreAnswersOnlyEmit (.frmOpen o) o.id o.battery (o.id ≠ 0#4 ∧ Accepted s.cfg (o.bits false true).toFrame) s) ∧
    (∀ o, StoreAnswersOnlyEmit (.frmClosed o) o.id o.battery (o.id ≠ 0#4 ∧ Accepted s.cfg (o.bits false false).toFrame) s)

/-- R356, R79, R113: no operation faults; no step changes the configuration; a pure read changes only the result. -/
def Obligations.NothingFaultsConfigurationConstant : Prop :=
  (∀ (s : State), (∃ t, step s = .next t ∧ t.cfg = s.cfg) ∨ (∃ c, step s = .refused c)) ∧
  (∀ (i : Instr) (s t : State), pureRead i = true → exec i s = .next t → t = { s with result := t.result })

/-- R44: `elapsed` of two reduced counts is the true elapsed time while that is under 2^32 ms, across the clock's wrap: a frame
started at true time `a` is timed out at true time `b` exactly when `RX_TIMEOUT_MS` has passed. -/
def Obligations.DeadlineIsTrueElapsedTime : Prop :=
  ∀ (s : State) (a b : Nat), a ≤ b → b - a < 2 ^ 32 → s.rx.rxState = .assembling → s.rx.rxT0 = .ofNat 32 a →
    ∃ t, exec (.rxTick (.ofNat 32 b)) s = .next t ∧ (t.result = .expired ↔ s.cfg.rxTimeoutMs ≤ b - a)
end

