-- ==== Sys2Proof/Laws/Frame.lean ====
section
/-! SUPPORT. A frame and its fields are the same data (30_encoding.md R130 to R143): the two views are inverse to each other, and
each field is the number its rule gives. -/

namespace Sys2Proof

/-- Two frames with the same eight bytes are the same. -/
theorem frame_ext {F G : Frame} (h : ∀ i, (hi : i < 8) → F[i] = G[i]) : F = G := Vector.ext h

theorem frame_ext8 {F G : Frame} (h0 : F[0] = G[0]) (h1 : F[1] = G[1]) (h2 : F[2] = G[2]) (h3 : F[3] = G[3])
    (h4 : F[4] = G[4]) (h5 : F[5] = G[5]) (h6 : F[6] = G[6]) (h7 : F[7] = G[7]) : F = G := by
  apply frame_ext
  intro i hi
  match i, hi with
  | 0, _ => exact h0
  | 1, _ => exact h1
  | 2, _ => exact h2
  | 3, _ => exact h3
  | 4, _ => exact h4
  | 5, _ => exact h5
  | 6, _ => exact h6
  | 7, _ => exact h7

/-! ### One byte made of parts -/

theorem nibbles_high (a b : BitVec 4) : (a ++ b).extractLsb' 4 4 = a := by
  revert a b; decide

theorem nibbles_low (a b : BitVec 4) : (a ++ b).extractLsb' 0 4 = b := by
  revert a b; decide

theorem nibbles_join (c : Byte) : c.extractLsb' 4 4 ++ c.extractLsb' 0 4 = c := by
  revert c; decide

/-- A 16-bit number from its high and low byte (20_memory.md R107). -/
theorem append_bytes_toNat (a b : Byte) : (a ++ b).toNat = a.toNat * 256 + b.toNat := by
  have := b.isLt
  rw [BitVec.toNat_append, Nat.shiftLeft_eq, Nat.mul_comm, ← Nat.two_pow_add_eq_or_of_lt (by omega)]

theorem bytes_high (s : BitVec 16) : s.extractLsb' 8 8 ++ s.extractLsb' 0 8 = s := by
  apply BitVec.eq_of_toNat_eq
  have := s.isLt
  rw [append_bytes_toNat]
  simp only [BitVec.extractLsb'_toNat, Nat.shiftRight_eq_div_pow]; omega

theorem bytes_first (a b : Byte) : (a ++ b).extractLsb' 8 8 = a := by
  apply BitVec.eq_of_toNat_eq
  have := a.isLt; have := b.isLt
  simp only [BitVec.extractLsb'_toNat, append_bytes_toNat, Nat.shiftRight_eq_div_pow]; omega

theorem bytes_second (a b : Byte) : (a ++ b).extractLsb' 0 8 = b := by
  apply BitVec.eq_of_toNat_eq
  have := a.isLt; have := b.isLt
  simp only [BitVec.extractLsb'_toNat, append_bytes_toNat, Nat.shiftRight_eq_div_pow]; omega

/-- The second byte of a frame from its id and flags. -/
def flagByte (i : MailboxId) (boot online door rsv : Bool) : Byte := i ++ bit boot ++ bit online ++ bit door ++ bit rsv

theorem flagByte_id (i : MailboxId) (a b c d : Bool) : (flagByte i a b c d).extractLsb' 4 4 = i := by
  revert i a b c d; decide

theorem flagByte_flags (i : MailboxId) (a b c d : Bool) :
    (flagByte i a b c d).getLsbD 3 = a ∧ (flagByte i a b c d).getLsbD 2 = b ∧
    (flagByte i a b c d).getLsbD 1 = c ∧ (flagByte i a b c d).getLsbD 0 = d := by
  revert i a b c d; decide

theorem flagByte_join (c : Byte) :
    flagByte (c.extractLsb' 4 4) (c.getLsbD 3) (c.getLsbD 2) (c.getLsbD 1) (c.getLsbD 0) = c := by
  revert c; decide

theorem battByte_battery (b : Battery) (r : Bool) : (b ++ bit r).extractLsb' 1 7 = b := by
  revert b r; decide

theorem battByte_rsv (b : Battery) (r : Bool) : (b ++ bit r).getLsbD 0 = r := by
  revert b r; decide

theorem battByte_join (c : Byte) : c.extractLsb' 1 7 ++ bit (c.getLsbD 0) = c := by
  revert c; decide

/-! ### The two views are inverse -/

/-- Unpacking what was packed gives every field back. -/
@[simp] theorem bits_toFrame (b : FrameBits) : b.toFrame.bits = b := by
  obtain ⟨h3, h2, h1, h0⟩ := flagByte_flags b.id b.boot b.online b.door b.rsv1
  have hid := flagByte_id b.id b.boot b.online b.door b.rsv1
  simp only [flagByte] at h0 h1 h2 h3 hid
  cases b
  simp only [FrameBits.toFrame, Frame.bits]
  simp only [FrameBits.mk.injEq]
  exact ⟨nibbles_high _ _, nibbles_low _ _, hid, h3, h2, h1, h0, bytes_high _, bytes_high _, battByte_battery _ _,
    battByte_rsv _ _, rfl⟩

/-- Packing what was unpacked gives every byte back: no bit of a frame is dropped. -/
@[simp] theorem toFrame_bits (F : Frame) : F.bits.toFrame = F := by
  apply frame_ext8
  · exact nibbles_join _
  · exact flagByte_join _
  · exact bytes_first _ _
  · exact bytes_second _ _
  · exact bytes_first _ _
  · exact bytes_second _ _
  · exact battByte_join _
  · rfl

theorem toFrame_injective {a b : FrameBits} (h : a.toFrame = b.toFrame) : a = b := by
  rw [← bits_toFrame a, h, bits_toFrame]

/-- A frame is its list of bytes. -/
theorem frame_toList (F : Frame) : F.toList = [F[0], F[1], F[2], F[3], F[4], F[5], F[6], F[7]] := by
  apply List.ext_getElem
  · simp
  · intro i h1 h2
    have : i < 8 := by simpa using h1
    match i, this with
    | 0, _ | 1, _ | 2, _ | 3, _ | 4, _ | 5, _ | 6, _ | 7, _ => simp

/-- Reading one field after replacing one (40_codec.md R180). -/
theorem get_put_same (b : FrameBits) (v : FieldValue) : (b.put v).get v.fieldName = v := by cases v <;> rfl

theorem get_put_other (b : FrameBits) (v : FieldValue) (n : FieldName) (h : n ≠ v.fieldName) :
    (b.put v).get n = b.get n := by
  cases v <;> cases n <;> first | rfl | exact absurd rfl h

/-! ### The class bits -/

@[simp] theorem operands_bits (o : FrameOperands) (boot door : Bool) : (o.bits boot door).operands = o := rfl

@[simp] theorem bits_operands (b : FrameBits) : b.operands.bits b.boot b.door = b := rfl

/-- Decoding the bytes of a frame is decoding its bits. -/
theorem decode_frame (F : Frame) (o : Operands) : decode ⟨F.toList, o⟩ = .ok (decodeFrame F.bits o.env) := by
  rw [frame_toList]; rfl

/-! ### Checksum -/

theorem byte_xor_eq_zero (a b : Byte) : a ^^^ b = 0 ↔ a = b := by
  constructor
  · intro h
    have : a ^^^ b ^^^ b = 0 ^^^ b := by rw [h]
    simpa [BitVec.xor_assoc] using this
  · rintro rfl; simp

theorem frameChecksumOk_iff (F : Frame) : frameChecksumOk F = true ↔ frameChecksum F ^^^ F[7] = 0 := by
  simp only [frameChecksumOk, beq_iff_eq, byte_xor_eq_zero]

/-- `ENCODE`'s frame in bytes (40_codec.md R171). -/
theorem encodeFields_bits (v : BitVec 4) (f : Fields) :
    (encodeFields v f).bits = f.bits v (frameChecksum (encodeFields v f)) := by
  simp only [encodeFields, bits_toFrame]; rfl

theorem encodeFields_checksumOk (v : BitVec 4) (f : Fields) : frameChecksumOk (encodeFields v f) = true := by
  simp only [frameChecksumOk, beq_iff_eq]; rfl

theorem encodeFields_fields (v : BitVec 4) (f : Fields) : (encodeFields v f).fields = f := by
  simp only [Frame.fields, encodeFields_bits]; rfl

theorem encodeFields_ver (v : BitVec 4) (f : Fields) : (encodeFields v f).bits.ver = v := by
  rw [encodeFields_bits]; rfl

/-! ### The numbers the field rules give (30_encoding.md R132 to R143) -/

theorem ver_toNat (F : Frame) : F.bits.ver.toNat = F[0].toNat / 16 := by
  have := F[0].isLt
  simp only [Frame.bits, BitVec.extractLsb'_toNat, Nat.shiftRight_eq_div_pow]; omega

theorem raddr_toNat (F : Frame) : F.bits.raddr.toNat = F[0].toNat % 16 := by
  simp [Frame.bits, BitVec.extractLsb'_toNat]

theorem id_toNat (F : Frame) : F.bits.id.toNat = F[1].toNat / 16 := by
  have := F[1].isLt
  simp only [Frame.bits, BitVec.extractLsb'_toNat, Nat.shiftRight_eq_div_pow]; omega

theorem seq_toNat (F : Frame) : F.bits.seq.toNat = F[2].toNat * 256 + F[3].toNat := append_bytes_toNat _ _

theorem uptime_toNat (F : Frame) : F.bits.uptime.toNat = F[4].toNat * 256 + F[5].toNat := append_bytes_toNat _ _

theorem battery_toNat (F : Frame) : F.bits.battery.toNat = F[6].toNat / 2 := by
  have := F[6].isLt
  simp only [Frame.bits, BitVec.extractLsb'_toNat, Nat.shiftRight_eq_div_pow]; omega

end Sys2Proof
end

