-- ==== Sys2Proof/Laws/Checksum.lean ====
section
/-! SUPPORT. The checksum as the XOR of all eight bytes (40_codec.md R174, R182), the numeric forms of the version and address
tests (30_encoding.md R132, R133), and the acceptance conditions (R148). -/

namespace Sys2Proof.Machine

/-! ### The XOR of a frame -/

/-- Replacing one byte changes the XOR by the difference of the two bytes (R182). -/
theorem xorAll_set (F : Frame) (k : Nat) (hk : k < 8) (v : Byte) :
    xorAll (F.set k v hk) = xorAll F ^^^ (F[k] ^^^ v) := by
  unfold xorAll
  match k, hk with
  | 0, _ | 1, _ | 2, _ | 3, _ | 4, _ | 5, _ | 6, _ | 7, _ =>
    simp only [Vector.getElem_set, ↓reduceIte, Nat.reduceEqDiff, OfNat.ofNat_ne_zero, OfNat.zero_ne_ofNat,
      OfNat.one_ne_ofNat, OfNat.ofNat_ne_one, one_ne_zero, zero_ne_one]
    generalize F[0] = a0
    generalize F[1] = a1
    generalize F[2] = a2
    generalize F[3] = a3
    generalize F[4] = a4
    generalize F[5] = a5
    generalize F[6] = a6
    generalize F[7] = a7
    apply BitVec.eq_of_getLsbD_eq
    intro i _
    simp only [BitVec.getLsbD_xor]
    generalize a0.getLsbD i = a
    generalize a1.getLsbD i = b
    generalize a2.getLsbD i = c
    generalize a3.getLsbD i = d
    generalize a4.getLsbD i = e
    generalize a5.getLsbD i = f
    generalize a6.getLsbD i = g
    generalize a7.getLsbD i = h
    generalize v.getLsbD i = w
    revert a b c d e f g h w; decide

theorem xorAll_foldl (F : Frame) : xorAll F = F.toList.foldl (· ^^^ ·) 0#8 := by
  rw [frame_toList]; simp [xorAll]

theorem foldl_xor (l : List Byte) (a : Byte) : l.foldl (· ^^^ ·) a = a ^^^ l.foldl (· ^^^ ·) 0#8 := by
  induction l generalizing a with
  | nil => simp
  | cons b l ih => rw [List.foldl_cons, ih, List.foldl_cons, ih (0#8 ^^^ b)]; simp [BitVec.xor_assoc]

/-- The XOR of a list in which the same difference is applied to some elements (R176): it changes by that difference when their
number is odd, and not at all when it is even. -/
theorem foldl_xor_flip {α : Type} (l : List α) (f : α → Byte) (p : α → Bool) (d : Byte) :
    (l.map fun a => if p a then f a ^^^ d else f a).foldl (· ^^^ ·) 0#8 =
      (l.map f).foldl (· ^^^ ·) 0#8 ^^^ (if l.countP p % 2 = 1 then d else 0#8) := by
  induction l with
  | nil => simp
  | cons a l ih =>
    simp only [List.map_cons, List.foldl_cons]
    rw [foldl_xor, ih, foldl_xor _ (0#8 ^^^ f a), List.countP_cons]
    generalize (l.map f).foldl (· ^^^ ·) 0#8 = x
    rcases Nat.mod_two_eq_zero_or_one (l.countP p) with h | h
    · cases hp : p a
      · simp [h]
      · have : (l.countP p + 1) % 2 = 1 := by omega
        simp [this, h]; ac_rfl
    · cases hp : p a
      · simp [h]; ac_rfl
      · have : (l.countP p + 1) % 2 = 0 := by omega
        simp [this, h]
        generalize f a = y
        apply BitVec.eq_of_getLsbD_eq
        intro i _
        simp only [BitVec.getLsbD_xor]
        generalize y.getLsbD i = a
        generalize x.getLsbD i = b
        generalize d.getLsbD i = c
        revert a b c; decide

/-! ### The tests in numbers -/

theorem frameChecksumOk_eq (F : Frame) : frameChecksumOk F = decide (xorAll F = 0#8) := by
  rw [Bool.eq_iff_iff, frameChecksumOk_iff, decide_eq_true_eq]; rfl

theorem frameVersionOk_eq (v : BitVec 4) (F : Frame) : frameVersionOk v F = decide (F[0].toNat / 16 = v.toNat) := by
  rw [Bool.eq_iff_iff]
  simp only [frameVersionOk, beq_iff_eq, decide_eq_true_eq, ← ver_toNat, BitVec.toNat_inj]

theorem ver_ne_iff (v : BitVec 4) (F : Frame) : F.bits.ver ≠ v ↔ F[0].toNat / 16 ≠ v.toNat := by
  rw [← ver_toNat, Ne, Ne, BitVec.toNat_inj]

theorem addressTaken_eq_false (cfg : Config) (F : Frame) :
    addressTaken cfg F.bits.raddr = false ↔ (F[0].toNat % 16 ≠ cfg.ownAddr.toNat ∧ F[0].toNat % 16 ≠ 0) := by
  rw [← raddr_toNat]
  have h0 : F.bits.raddr.toNat ≠ 0 ↔ F.bits.raddr ≠ broadcastAddr := by
    rw [Ne, Ne, ← BitVec.toNat_inj]; rfl
  have h1 : F.bits.raddr.toNat ≠ cfg.ownAddr.toNat ↔ F.bits.raddr ≠ cfg.ownAddr := by
    rw [Ne, Ne, ← BitVec.toNat_inj]
  rw [h0, h1]; simp [addressTaken]

theorem firstByteGood_iff (cfg : Config) (b : Byte) :
    FirstByteGood cfg b ↔
      ¬ (b.toNat / 16 ≠ cfg.protoVersion.toNat) ∧ ¬ (b.toNat % 16 ≠ cfg.ownAddr.toNat ∧ b.toNat % 16 ≠ 0) := by
  unfold FirstByteGood; rw [not_not, not_and_or, not_not, not_not]

/-- What a frame's acceptance test answers, in numbers: the order of the tests is 60_exceptions.md R354's. -/
theorem frameRejection_eq (cfg : Config) (F : Frame) :
    frameRejection cfg F =
      if F[0].toNat / 16 ≠ cfg.protoVersion.toNat then some (.badVersion F[0])
      else if F[0].toNat % 16 ≠ cfg.ownAddr.toNat ∧ F[0].toNat % 16 ≠ 0 then some (.badAddress F[0])
      else if xorAll F ≠ 0#8 then some (.badChecksum F) else none := by
  simp only [frameRejection, frameVersionOk_eq, addressTaken_eq_false, frameChecksumOk_eq, decide_eq_false_iff_not, Ne]

/-- The acceptance test passes exactly the accepted frames (R148). -/
theorem frameRejection_eq_none (cfg : Config) (F : Frame) : frameRejection cfg F = none ↔ Accepted cfg F := by
  rw [frameRejection_eq, Accepted, firstByteGood_iff]
  split
  · rename_i h; exact ⟨fun e => (by cases e), fun e => absurd h e.1.1⟩
  · rename_i h1
    split
    · rename_i h; exact ⟨fun e => (by cases e), fun e => absurd h e.1.2⟩
    · rename_i h2
      split
      · rename_i h; exact ⟨fun e => (by cases e), fun e => absurd e.2 h⟩
      · rename_i h; exact ⟨fun _ => ⟨⟨h1, h2⟩, not_not.1 h⟩, fun _ => rfl⟩

/-- What `DECODE` returned when it returned fields (40_codec.md R172). -/
theorem decodeResult_eq_ok {v : BitVec 4} {F : Frame} {f : Fields} (h : decodeResult v F = .ok f) :
    f = F.fields ∧ F.bits.ver = v ∧ xorAll F = 0#8 := by
  unfold decodeResult at h
  split at h
  · cases h
  · split at h
    · cases h
    · rename_i h1 h2
      cases h
      exact ⟨rfl, by simpa [frameVersionOk] using h1, by simpa [frameChecksumOk_eq] using h2⟩

/-- Executing a frame word is presenting its bytes, whatever the class (30_encoding.md R145). -/
theorem exec_decodeFrame (F : Frame) (env : DispatchEnv) (s : State) :
    exec (decodeFrame F.bits env) s = s.frameArrives F env := by
  unfold decodeFrame frameClass
  rcases hb : F.bits.boot with _ | _ <;> rcases hd : F.bits.door with _ | _ <;>
    · simp only [exec, execFrmBoot, execFrmOpen, execFrmClosed, if_true, if_false, Bool.false_eq_true]
      congr 1
      conv_rhs => rw [← toFrame_bits F, ← bits_operands F.bits, hb, hd]

/-- What a request whose word is a frame decodes to. -/
theorem decode_of_frame {r : Request} {i : Instr} {F : Frame} (hw : r.word = F.toList) (hd : decode r = .ok i) :
    i = decodeFrame F.bits r.operands.env := by
  obtain ⟨w, o⟩ := r
  simp only at hw; subst hw
  rw [decode_frame] at hd; cases hd; rfl

end Sys2Proof.Machine
end

