-- ==== Sys2Proof/Laws/State.lean ====
section
/-! SUPPORT. One lemma per field per update of the state's records, true by definition, so that no proof unfolds a record
update. -/

namespace Sys2Proof.Machine

/-! ### Receiver -/

@[simp] theorem Receiver.emit_rxBuf (e : Event) (r : Receiver) : (r.emit e).rxBuf = r.rxBuf := rfl
@[simp] theorem Receiver.emit_rxState (e : Event) (r : Receiver) : (r.emit e).rxState = r.rxState := rfl
@[simp] theorem Receiver.emit_rxCount (e : Event) (r : Receiver) : (r.emit e).rxCount = r.rxCount := rfl
@[simp] theorem Receiver.emit_rxT0 (e : Event) (r : Receiver) : (r.emit e).rxT0 = r.rxT0 := rfl
@[simp] theorem Receiver.emit_rxArmed (e : Event) (r : Receiver) : (r.emit e).rxArmed = r.rxArmed := rfl
@[simp] theorem Receiver.emit_rxMsgValid (e : Event) (r : Receiver) : (r.emit e).rxMsgValid = r.rxMsgValid := rfl
@[simp] theorem Receiver.emit_slots (e : Event) (r : Receiver) : (r.emit e).slots = r.slots := rfl
@[simp] theorem Receiver.emit_globalAlarm (e : Event) (r : Receiver) : (r.emit e).globalAlarm = r.globalAlarm := rfl
@[simp] theorem Receiver.emit_events (e : Event) (r : Receiver) : (r.emit e).events = r.events ++ [e] := rfl
@[simp] theorem Receiver.emit_draws (e : Event) (r : Receiver) : (r.emit e).draws = r.draws := rfl

@[simp] theorem Receiver.emitAll_rxBuf (es : List Event) (r : Receiver) : (r.emitAll es).rxBuf = r.rxBuf := rfl
@[simp] theorem Receiver.emitAll_rxState (es : List Event) (r : Receiver) : (r.emitAll es).rxState = r.rxState := rfl
@[simp] theorem Receiver.emitAll_rxCount (es : List Event) (r : Receiver) : (r.emitAll es).rxCount = r.rxCount := rfl
@[simp] theorem Receiver.emitAll_rxT0 (es : List Event) (r : Receiver) : (r.emitAll es).rxT0 = r.rxT0 := rfl
@[simp] theorem Receiver.emitAll_rxArmed (es : List Event) (r : Receiver) : (r.emitAll es).rxArmed = r.rxArmed := rfl
@[simp] theorem Receiver.emitAll_rxMsgValid (es : List Event) (r : Receiver) : (r.emitAll es).rxMsgValid = r.rxMsgValid := rfl
@[simp] theorem Receiver.emitAll_slots (es : List Event) (r : Receiver) : (r.emitAll es).slots = r.slots := rfl
@[simp] theorem Receiver.emitAll_globalAlarm (es : List Event) (r : Receiver) : (r.emitAll es).globalAlarm = r.globalAlarm := rfl
@[simp] theorem Receiver.emitAll_events (es : List Event) (r : Receiver) : (r.emitAll es).events = r.events ++ es := rfl
@[simp] theorem Receiver.emitAll_draws (es : List Event) (r : Receiver) : (r.emitAll es).draws = r.draws := rfl

@[simp] theorem Receiver.raise_rxBuf (c : Condition) (r : Receiver) : (r.raise c).rxBuf = r.rxBuf := rfl
@[simp] theorem Receiver.raise_rxState (c : Condition) (r : Receiver) : (r.raise c).rxState = r.rxState := rfl
@[simp] theorem Receiver.raise_rxCount (c : Condition) (r : Receiver) : (r.raise c).rxCount = r.rxCount := rfl
@[simp] theorem Receiver.raise_rxT0 (c : Condition) (r : Receiver) : (r.raise c).rxT0 = r.rxT0 := rfl
@[simp] theorem Receiver.raise_rxArmed (c : Condition) (r : Receiver) : (r.raise c).rxArmed = r.rxArmed := rfl
@[simp] theorem Receiver.raise_rxMsgValid (c : Condition) (r : Receiver) : (r.raise c).rxMsgValid = r.rxMsgValid := rfl
@[simp] theorem Receiver.raise_slots (c : Condition) (r : Receiver) : (r.raise c).slots = r.slots := rfl
@[simp] theorem Receiver.raise_globalAlarm (c : Condition) (r : Receiver) : (r.raise c).globalAlarm = r.globalAlarm := rfl
@[simp] theorem Receiver.raise_events (c : Condition) (r : Receiver) : (r.raise c).events = r.events ++ [.condition c] := rfl
@[simp] theorem Receiver.raise_draws (c : Condition) (r : Receiver) : (r.raise c).draws = r.draws := rfl

@[simp] theorem Receiver.persist_rxBuf (e : Event) (i : MailboxId) (b : Bool) (r : Receiver) : (r.persist e i b).rxBuf = r.rxBuf := rfl
@[simp] theorem Receiver.persist_rxState (e : Event) (i : MailboxId) (b : Bool) (r : Receiver) : (r.persist e i b).rxState = r.rxState := rfl
@[simp] theorem Receiver.persist_rxCount (e : Event) (i : MailboxId) (b : Bool) (r : Receiver) : (r.persist e i b).rxCount = r.rxCount := rfl
@[simp] theorem Receiver.persist_rxT0 (e : Event) (i : MailboxId) (b : Bool) (r : Receiver) : (r.persist e i b).rxT0 = r.rxT0 := rfl
@[simp] theorem Receiver.persist_rxArmed (e : Event) (i : MailboxId) (b : Bool) (r : Receiver) : (r.persist e i b).rxArmed = r.rxArmed := rfl
@[simp] theorem Receiver.persist_rxMsgValid (e : Event) (i : MailboxId) (b : Bool) (r : Receiver) : (r.persist e i b).rxMsgValid = r.rxMsgValid := rfl
@[simp] theorem Receiver.persist_slots (e : Event) (i : MailboxId) (b : Bool) (r : Receiver) : (r.persist e i b).slots = r.slots := rfl
@[simp] theorem Receiver.persist_globalAlarm (e : Event) (i : MailboxId) (b : Bool) (r : Receiver) : (r.persist e i b).globalAlarm = r.globalAlarm := rfl
@[simp] theorem Receiver.persist_events (e : Event) (i : MailboxId) (b : Bool) (r : Receiver) : (r.persist e i b).events = r.events ++ persistEvents e i b := rfl
@[simp] theorem Receiver.persist_draws (e : Event) (i : MailboxId) (b : Bool) (r : Receiver) : (r.persist e i b).draws = r.draws := rfl

@[simp] theorem Receiver.recompute_rxBuf (r : Receiver) : (r.recompute).rxBuf = r.rxBuf := rfl
@[simp] theorem Receiver.recompute_rxState (r : Receiver) : (r.recompute).rxState = r.rxState := rfl
@[simp] theorem Receiver.recompute_rxCount (r : Receiver) : (r.recompute).rxCount = r.rxCount := rfl
@[simp] theorem Receiver.recompute_rxT0 (r : Receiver) : (r.recompute).rxT0 = r.rxT0 := rfl
@[simp] theorem Receiver.recompute_rxArmed (r : Receiver) : (r.recompute).rxArmed = r.rxArmed := rfl
@[simp] theorem Receiver.recompute_rxMsgValid (r : Receiver) : (r.recompute).rxMsgValid = r.rxMsgValid := rfl
@[simp] theorem Receiver.recompute_slots (r : Receiver) : (r.recompute).slots = r.slots := rfl
@[simp] theorem Receiver.recompute_globalAlarm (r : Receiver) : (r.recompute).globalAlarm = r.maxAlarm := rfl
@[simp] theorem Receiver.recompute_events (r : Receiver) : (r.recompute).events = r.events := rfl
@[simp] theorem Receiver.recompute_draws (r : Receiver) : (r.recompute).draws = r.draws := rfl

@[simp] theorem Receiver.toIdle_rxBuf (r : Receiver) : (r.toIdle).rxBuf = r.rxBuf := rfl
@[simp] theorem Receiver.toIdle_rxState (r : Receiver) : (r.toIdle).rxState = .idle := rfl
@[simp] theorem Receiver.toIdle_rxCount (r : Receiver) : (r.toIdle).rxCount = 0 := rfl
@[simp] theorem Receiver.toIdle_rxT0 (r : Receiver) : (r.toIdle).rxT0 = r.rxT0 := rfl
@[simp] theorem Receiver.toIdle_rxArmed (r : Receiver) : (r.toIdle).rxArmed = r.rxArmed := rfl
@[simp] theorem Receiver.toIdle_rxMsgValid (r : Receiver) : (r.toIdle).rxMsgValid = r.rxMsgValid := rfl
@[simp] theorem Receiver.toIdle_slots (r : Receiver) : (r.toIdle).slots = r.slots := rfl
@[simp] theorem Receiver.toIdle_globalAlarm (r : Receiver) : (r.toIdle).globalAlarm = r.globalAlarm := rfl
@[simp] theorem Receiver.toIdle_events (r : Receiver) : (r.toIdle).events = r.events := rfl
@[simp] theorem Receiver.toIdle_draws (r : Receiver) : (r.toIdle).draws = r.draws := rfl

@[simp] theorem Receiver.startFrame_rxBuf (b : Byte) (now : Time) (r : Receiver) : (r.startFrame b now).rxBuf = r.rxBuf.set 0 b := rfl
@[simp] theorem Receiver.startFrame_rxState (b : Byte) (now : Time) (r : Receiver) : (r.startFrame b now).rxState = .assembling := rfl
@[simp] theorem Receiver.startFrame_rxCount (b : Byte) (now : Time) (r : Receiver) : (r.startFrame b now).rxCount = 1 := rfl
@[simp] theorem Receiver.startFrame_rxT0 (b : Byte) (now : Time) (r : Receiver) : (r.startFrame b now).rxT0 = now := rfl
@[simp] theorem Receiver.startFrame_rxArmed (b : Byte) (now : Time) (r : Receiver) : (r.startFrame b now).rxArmed = r.rxArmed := rfl
@[simp] theorem Receiver.startFrame_rxMsgValid (b : Byte) (now : Time) (r : Receiver) : (r.startFrame b now).rxMsgValid = r.rxMsgValid := rfl
@[simp] theorem Receiver.startFrame_slots (b : Byte) (now : Time) (r : Receiver) : (r.startFrame b now).slots = r.slots := rfl
@[simp] theorem Receiver.startFrame_globalAlarm (b : Byte) (now : Time) (r : Receiver) : (r.startFrame b now).globalAlarm = r.globalAlarm := rfl
@[simp] theorem Receiver.startFrame_events (b : Byte) (now : Time) (r : Receiver) : (r.startFrame b now).events = r.events := rfl
@[simp] theorem Receiver.startFrame_draws (b : Byte) (now : Time) (r : Receiver) : (r.startFrame b now).draws = r.draws := rfl

@[simp] theorem Receiver.setSlot_rxBuf (i : MailboxId) (m : Option Slot) (r : Receiver) : (r.setSlot i m).rxBuf = r.rxBuf := by
  unfold Receiver.setSlot; split <;> rfl
@[simp] theorem Receiver.setSlot_rxState (i : MailboxId) (m : Option Slot) (r : Receiver) : (r.setSlot i m).rxState = r.rxState := by
  unfold Receiver.setSlot; split <;> rfl
@[simp] theorem Receiver.setSlot_rxCount (i : MailboxId) (m : Option Slot) (r : Receiver) : (r.setSlot i m).rxCount = r.rxCount := by
  unfold Receiver.setSlot; split <;> rfl
@[simp] theorem Receiver.setSlot_rxT0 (i : MailboxId) (m : Option Slot) (r : Receiver) : (r.setSlot i m).rxT0 = r.rxT0 := by
  unfold Receiver.setSlot; split <;> rfl
@[simp] theorem Receiver.setSlot_rxArmed (i : MailboxId) (m : Option Slot) (r : Receiver) : (r.setSlot i m).rxArmed = r.rxArmed := by
  unfold Receiver.setSlot; split <;> rfl
@[simp] theorem Receiver.setSlot_rxMsgValid (i : MailboxId) (m : Option Slot) (r : Receiver) : (r.setSlot i m).rxMsgValid = r.rxMsgValid := by
  unfold Receiver.setSlot; split <;> rfl
@[simp] theorem Receiver.setSlot_globalAlarm (i : MailboxId) (m : Option Slot) (r : Receiver) : (r.setSlot i m).globalAlarm = r.globalAlarm := by
  unfold Receiver.setSlot; split <;> rfl
@[simp] theorem Receiver.setSlot_events (i : MailboxId) (m : Option Slot) (r : Receiver) : (r.setSlot i m).events = r.events := by
  unfold Receiver.setSlot; split <;> rfl
@[simp] theorem Receiver.setSlot_draws (i : MailboxId) (m : Option Slot) (r : Receiver) : (r.setSlot i m).draws = r.draws := by
  unfold Receiver.setSlot; split <;> rfl

@[simp] theorem Receiver.createSlot_rxBuf (i : MailboxId) (m : Slot) (r : Receiver) : (r.createSlot i m).rxBuf = r.rxBuf := by
  simp [Receiver.createSlot]
@[simp] theorem Receiver.createSlot_rxState (i : MailboxId) (m : Slot) (r : Receiver) : (r.createSlot i m).rxState = r.rxState := by
  simp [Receiver.createSlot]
@[simp] theorem Receiver.createSlot_rxCount (i : MailboxId) (m : Slot) (r : Receiver) : (r.createSlot i m).rxCount = r.rxCount := by
  simp [Receiver.createSlot]
@[simp] theorem Receiver.createSlot_rxT0 (i : MailboxId) (m : Slot) (r : Receiver) : (r.createSlot i m).rxT0 = r.rxT0 := by
  simp [Receiver.createSlot]
@[simp] theorem Receiver.createSlot_rxArmed (i : MailboxId) (m : Slot) (r : Receiver) : (r.createSlot i m).rxArmed = r.rxArmed := by
  simp [Receiver.createSlot]
@[simp] theorem Receiver.createSlot_rxMsgValid (i : MailboxId) (m : Slot) (r : Receiver) : (r.createSlot i m).rxMsgValid = r.rxMsgValid := by
  simp [Receiver.createSlot]
@[simp] theorem Receiver.createSlot_globalAlarm (i : MailboxId) (m : Slot) (r : Receiver) : (r.createSlot i m).globalAlarm = r.globalAlarm := by
  simp [Receiver.createSlot]
@[simp] theorem Receiver.createSlot_events (i : MailboxId) (m : Slot) (r : Receiver) : (r.createSlot i m).events = r.events := by
  simp [Receiver.createSlot]
@[simp] theorem Receiver.createSlot_draws (i : MailboxId) (m : Slot) (r : Receiver) : (r.createSlot i m).draws = r.draws + 1 := rfl

@[simp] theorem Receiver.register_rxBuf (i : MailboxId) (b : Bool) (r : Receiver) : (r.register i b).rxBuf = r.rxBuf := by
  simp [Receiver.register]
@[simp] theorem Receiver.register_rxState (i : MailboxId) (b : Bool) (r : Receiver) : (r.register i b).rxState = r.rxState := by
  simp [Receiver.register]
@[simp] theorem Receiver.register_rxCount (i : MailboxId) (b : Bool) (r : Receiver) : (r.register i b).rxCount = r.rxCount := by
  simp [Receiver.register]
@[simp] theorem Receiver.register_rxT0 (i : MailboxId) (b : Bool) (r : Receiver) : (r.register i b).rxT0 = r.rxT0 := by
  simp [Receiver.register]
@[simp] theorem Receiver.register_rxArmed (i : MailboxId) (b : Bool) (r : Receiver) : (r.register i b).rxArmed = r.rxArmed := by
  simp [Receiver.register]
@[simp] theorem Receiver.register_rxMsgValid (i : MailboxId) (b : Bool) (r : Receiver) : (r.register i b).rxMsgValid = r.rxMsgValid := by
  simp [Receiver.register]
@[simp] theorem Receiver.register_globalAlarm (i : MailboxId) (b : Bool) (r : Receiver) : (r.register i b).globalAlarm = r.globalAlarm := by
  simp [Receiver.register]
@[simp] theorem Receiver.register_events (i : MailboxId) (b : Bool) (r : Receiver) : (r.register i b).events = r.events ++ persistEvents (.persistWrite i [] none battUnknown) i b := by
  simp [Receiver.register]
@[simp] theorem Receiver.register_draws (i : MailboxId) (b : Bool) (r : Receiver) : (r.register i b).draws = r.draws + 1 := by
  simp [Receiver.register]

@[simp] theorem Receiver.applyFrame_rxBuf (cfg : Config) (f : Fields) (now : Time) (wall : Wall) (b : Bool) (m : Slot) (r : Receiver) :
    (r.applyFrame cfg f now wall b m).rxBuf = r.rxBuf := by
  simp [Receiver.applyFrame]
@[simp] theorem Receiver.applyFrame_rxState (cfg : Config) (f : Fields) (now : Time) (wall : Wall) (b : Bool) (m : Slot) (r : Receiver) :
    (r.applyFrame cfg f now wall b m).rxState = r.rxState := by
  simp [Receiver.applyFrame]
@[simp] theorem Receiver.applyFrame_rxCount (cfg : Config) (f : Fields) (now : Time) (wall : Wall) (b : Bool) (m : Slot) (r : Receiver) :
    (r.applyFrame cfg f now wall b m).rxCount = r.rxCount := by
  simp [Receiver.applyFrame]
@[simp] theorem Receiver.applyFrame_rxT0 (cfg : Config) (f : Fields) (now : Time) (wall : Wall) (b : Bool) (m : Slot) (r : Receiver) :
    (r.applyFrame cfg f now wall b m).rxT0 = r.rxT0 := by
  simp [Receiver.applyFrame]
@[simp] theorem Receiver.applyFrame_rxArmed (cfg : Config) (f : Fields) (now : Time) (wall : Wall) (b : Bool) (m : Slot) (r : Receiver) :
    (r.applyFrame cfg f now wall b m).rxArmed = r.rxArmed := by
  simp [Receiver.applyFrame]
@[simp] theorem Receiver.applyFrame_rxMsgValid (cfg : Config) (f : Fields) (now : Time) (wall : Wall) (b : Bool) (m : Slot) (r : Receiver) :
    (r.applyFrame cfg f now wall b m).rxMsgValid = r.rxMsgValid := by
  simp [Receiver.applyFrame]
@[simp] theorem Receiver.applyFrame_globalAlarm (cfg : Config) (f : Fields) (now : Time) (wall : Wall) (b : Bool) (m : Slot) (r : Receiver) :
    (r.applyFrame cfg f now wall b m).globalAlarm = r.globalAlarm := by
  simp [Receiver.applyFrame]
@[simp] theorem Receiver.applyFrame_events (cfg : Config) (f : Fields) (now : Time) (wall : Wall) (b : Bool) (m : Slot) (r : Receiver) :
    (r.applyFrame cfg f now wall b m).events = r.events ++ m.frameEvents cfg f ++ persistEvents (.persistWrite f.id m.label wall f.battery) f.id b := by
  simp [Receiver.applyFrame]
@[simp] theorem Receiver.applyFrame_draws (cfg : Config) (f : Fields) (now : Time) (wall : Wall) (b : Bool) (m : Slot) (r : Receiver) :
    (r.applyFrame cfg f now wall b m).draws = r.draws := by
  simp [Receiver.applyFrame]

/-! ### Sensor -/

@[simp] theorem Sensor.emit_txBuf (e : Event) (t : Sensor) : (t.emit e).txBuf = t.txBuf := rfl
@[simp] theorem Sensor.emit_txSeq (e : Event) (t : Sensor) : (t.emit e).txSeq = t.txSeq := rfl
@[simp] theorem Sensor.emit_txSent (e : Event) (t : Sensor) : (t.emit e).txSent = t.txSent := rfl
@[simp] theorem Sensor.emit_txBatt (e : Event) (t : Sensor) : (t.emit e).txBatt = t.txBatt := rfl
@[simp] theorem Sensor.emit_battFirstPending (e : Event) (t : Sensor) : (t.emit e).battFirstPending = t.battFirstPending := rfl
@[simp] theorem Sensor.emit_radioAwake (e : Event) (t : Sensor) : (t.emit e).radioAwake = t.radioAwake := rfl
@[simp] theorem Sensor.emit_txBusyT0 (e : Event) (t : Sensor) : (t.emit e).txBusyT0 = t.txBusyT0 := rfl
@[simp] theorem Sensor.emit_txBusyDur (e : Event) (t : Sensor) : (t.emit e).txBusyDur = t.txBusyDur := rfl
@[simp] theorem Sensor.emit_retSeq (e : Event) (t : Sensor) : (t.emit e).retSeq = t.retSeq := rfl
@[simp] theorem Sensor.emit_retBatt (e : Event) (t : Sensor) : (t.emit e).retBatt = t.retBatt := rfl
@[simp] theorem Sensor.emit_bootFlag (e : Event) (t : Sensor) : (t.emit e).bootFlag = t.bootFlag := rfl
@[simp] theorem Sensor.emit_events (e : Event) (t : Sensor) : (t.emit e).events = t.events ++ [e] := rfl
@[simp] theorem Sensor.emit_link (e : Event) (t : Sensor) : (t.emit e).link = t.link := rfl
@[simp] theorem Sensor.emit_draws (e : Event) (t : Sensor) : (t.emit e).draws = t.draws := rfl

@[simp] theorem Sensor.settle_txBuf (now : Time) (dur : Nat) (t : Sensor) : (t.settle now dur).txBuf = t.txBuf := rfl
@[simp] theorem Sensor.settle_txSeq (now : Time) (dur : Nat) (t : Sensor) : (t.settle now dur).txSeq = t.txSeq := rfl
@[simp] theorem Sensor.settle_txSent (now : Time) (dur : Nat) (t : Sensor) : (t.settle now dur).txSent = t.txSent := rfl
@[simp] theorem Sensor.settle_txBatt (now : Time) (dur : Nat) (t : Sensor) : (t.settle now dur).txBatt = t.txBatt := rfl
@[simp] theorem Sensor.settle_battFirstPending (now : Time) (dur : Nat) (t : Sensor) : (t.settle now dur).battFirstPending = t.battFirstPending := rfl
@[simp] theorem Sensor.settle_radioAwake (now : Time) (dur : Nat) (t : Sensor) : (t.settle now dur).radioAwake = t.radioAwake := rfl
@[simp] theorem Sensor.settle_txBusyT0 (now : Time) (dur : Nat) (t : Sensor) : (t.settle now dur).txBusyT0 = now := rfl
@[simp] theorem Sensor.settle_txBusyDur (now : Time) (dur : Nat) (t : Sensor) : (t.settle now dur).txBusyDur = dur := rfl
@[simp] theorem Sensor.settle_retSeq (now : Time) (dur : Nat) (t : Sensor) : (t.settle now dur).retSeq = t.retSeq := rfl
@[simp] theorem Sensor.settle_retBatt (now : Time) (dur : Nat) (t : Sensor) : (t.settle now dur).retBatt = t.retBatt := rfl
@[simp] theorem Sensor.settle_bootFlag (now : Time) (dur : Nat) (t : Sensor) : (t.settle now dur).bootFlag = t.bootFlag := rfl
@[simp] theorem Sensor.settle_events (now : Time) (dur : Nat) (t : Sensor) : (t.settle now dur).events = t.events := rfl
@[simp] theorem Sensor.settle_link (now : Time) (dur : Nat) (t : Sensor) : (t.settle now dur).link = t.link := rfl
@[simp] theorem Sensor.settle_draws (now : Time) (dur : Nat) (t : Sensor) : (t.settle now dur).draws = t.draws := rfl

@[simp] theorem Sensor.power_txBuf (c : RadioCommand) (now : Time) (dur : Nat) (t : Sensor) : (t.power c now dur).txBuf = t.txBuf := rfl
@[simp] theorem Sensor.power_txSeq (c : RadioCommand) (now : Time) (dur : Nat) (t : Sensor) : (t.power c now dur).txSeq = t.txSeq := rfl
@[simp] theorem Sensor.power_txSent (c : RadioCommand) (now : Time) (dur : Nat) (t : Sensor) : (t.power c now dur).txSent = t.txSent := rfl
@[simp] theorem Sensor.power_txBatt (c : RadioCommand) (now : Time) (dur : Nat) (t : Sensor) : (t.power c now dur).txBatt = t.txBatt := rfl
@[simp] theorem Sensor.power_battFirstPending (c : RadioCommand) (now : Time) (dur : Nat) (t : Sensor) : (t.power c now dur).battFirstPending = t.battFirstPending := rfl
@[simp] theorem Sensor.power_radioAwake (c : RadioCommand) (now : Time) (dur : Nat) (t : Sensor) : (t.power c now dur).radioAwake = some (decide (c = .wake)) := rfl
@[simp] theorem Sensor.power_txBusyT0 (c : RadioCommand) (now : Time) (dur : Nat) (t : Sensor) : (t.power c now dur).txBusyT0 = now := rfl
@[simp] theorem Sensor.power_txBusyDur (c : RadioCommand) (now : Time) (dur : Nat) (t : Sensor) : (t.power c now dur).txBusyDur = dur := rfl
@[simp] theorem Sensor.power_retSeq (c : RadioCommand) (now : Time) (dur : Nat) (t : Sensor) : (t.power c now dur).retSeq = t.retSeq := rfl
@[simp] theorem Sensor.power_retBatt (c : RadioCommand) (now : Time) (dur : Nat) (t : Sensor) : (t.power c now dur).retBatt = t.retBatt := rfl
@[simp] theorem Sensor.power_bootFlag (c : RadioCommand) (now : Time) (dur : Nat) (t : Sensor) : (t.power c now dur).bootFlag = t.bootFlag := rfl
@[simp] theorem Sensor.power_events (c : RadioCommand) (now : Time) (dur : Nat) (t : Sensor) : (t.power c now dur).events = t.events ++ [.radioPower c] := rfl
@[simp] theorem Sensor.power_link (c : RadioCommand) (now : Time) (dur : Nat) (t : Sensor) : (t.power c now dur).link = t.link := rfl
@[simp] theorem Sensor.power_draws (c : RadioCommand) (now : Time) (dur : Nat) (t : Sensor) : (t.power c now dur).draws = t.draws := rfl

@[simp] theorem Sensor.send_txBuf (cfg : Config) (online door : Bool) (now : Time) (t : Sensor) : (t.send cfg online door now).txBuf = t.outgoing cfg online door now := rfl
@[simp] theorem Sensor.send_txSeq (cfg : Config) (online door : Bool) (now : Time) (t : Sensor) : (t.send cfg online door now).txSeq = seqAfter t.txSeq := rfl
@[simp] theorem Sensor.send_txSent (cfg : Config) (online door : Bool) (now : Time) (t : Sensor) : (t.send cfg online door now).txSent = t.txSent + 1 := rfl
@[simp] theorem Sensor.send_txBatt (cfg : Config) (online door : Bool) (now : Time) (t : Sensor) : (t.send cfg online door now).txBatt = t.txBatt := rfl
@[simp] theorem Sensor.send_battFirstPending (cfg : Config) (online door : Bool) (now : Time) (t : Sensor) : (t.send cfg online door now).battFirstPending = t.battFirstPending := rfl
@[simp] theorem Sensor.send_radioAwake (cfg : Config) (online door : Bool) (now : Time) (t : Sensor) : (t.send cfg online door now).radioAwake = t.radioAwake := rfl
@[simp] theorem Sensor.send_txBusyT0 (cfg : Config) (online door : Bool) (now : Time) (t : Sensor) : (t.send cfg online door now).txBusyT0 = now := rfl
@[simp] theorem Sensor.send_txBusyDur (cfg : Config) (online door : Bool) (now : Time) (t : Sensor) : (t.send cfg online door now).txBusyDur = cfg.txSettleMs := rfl
@[simp] theorem Sensor.send_retSeq (cfg : Config) (online door : Bool) (now : Time) (t : Sensor) : (t.send cfg online door now).retSeq = t.retSeq := rfl
@[simp] theorem Sensor.send_retBatt (cfg : Config) (online door : Bool) (now : Time) (t : Sensor) : (t.send cfg online door now).retBatt = t.retBatt := rfl
@[simp] theorem Sensor.send_bootFlag (cfg : Config) (online door : Bool) (now : Time) (t : Sensor) : (t.send cfg online door now).bootFlag = t.bootFlag := rfl
@[simp] theorem Sensor.send_events (cfg : Config) (online door : Bool) (now : Time) (t : Sensor) : (t.send cfg online door now).events = t.events := rfl
@[simp] theorem Sensor.send_link (cfg : Config) (online door : Bool) (now : Time) (t : Sensor) : (t.send cfg online door now).link = t.link ++ (t.outgoing cfg online door now).toList := rfl
@[simp] theorem Sensor.send_draws (cfg : Config) (online door : Bool) (now : Time) (t : Sensor) : (t.send cfg online door now).draws = t.draws := rfl

end Sys2Proof.Machine
end

