-- ==== Sys2Proof/Laws/SlotFile.lean ====
section
/-! SUPPORT. The slot file (10_state.md R60, 44_registry.md): what reading a slot gives after each way of writing one, what a sweep
and a load do, and what the maximum alarm is. -/

namespace Sys2Proof.Machine

theorem id_index_inj {i j : MailboxId} (hi : i ≠ 0#4) (hj : j ≠ 0#4) (h : i.toNat - 1 = j.toNat - 1) : i = j := by
  apply BitVec.eq_of_toNat_eq
  have h1 : i.toNat ≠ 0 := fun e => hi (BitVec.eq_of_toNat_eq (by simpa using e))
  have h2 : j.toNat ≠ 0 := fun e => hj (BitVec.eq_of_toNat_eq (by simpa using e))
  omega

/-- There is no slot 0 (R60). -/
@[simp] theorem slot?_zero (r : Receiver) : r.slot? 0#4 = none := rfl

theorem ne_zero_of_slot? {r : Receiver} {i : MailboxId} {m : Slot} (h : r.slot? i = some m) : i ≠ 0#4 := by
  rintro rfl; simp at h

/-- Reading a slot depends on the slot file only. -/
theorem slot?_congr {r r' : Receiver} (h : r.slots = r'.slots) (i : MailboxId) : r.slot? i = r'.slot? i := by
  simp only [Receiver.slot?, h]

/-- Reading the slot just written. -/
theorem slot?_setSlot_same (r : Receiver) {i : MailboxId} (hi : i ≠ 0#4) (m : Option Slot) :
    (r.setSlot i m).slot? i = m := by
  simp [Receiver.setSlot, Receiver.slot?, hi]

/-- Writing a slot leaves every other slot alone. -/
theorem slot?_setSlot_other (r : Receiver) {i j : MailboxId} (hij : j ≠ i) (m : Option Slot) :
    (r.setSlot i m).slot? j = r.slot? j := by
  unfold Receiver.setSlot
  split
  · rfl
  · rename_i hi
    unfold Receiver.slot?
    split
    · rfl
    · rename_i hj
      simp only
      rw [Vector.getElem_set_ne]
      intro h; exact hij (id_index_inj hj hi h.symm)

theorem slot?_setSlot (r : Receiver) (i j : MailboxId) (m : Option Slot) :
    (r.setSlot i m).slot? j = if j = i ∧ i ≠ 0#4 then m else r.slot? j := by
  by_cases h : j = i
  · subst h
    by_cases hj : j = 0#4
    · subst hj; simp
    · simp [slot?_setSlot_same, hj]
  · simp [h, slot?_setSlot_other r h]

@[simp] theorem slot?_emitAll (r : Receiver) (es : List Event) (i : MailboxId) : (r.emitAll es).slot? i = r.slot? i := rfl
@[simp] theorem slot?_emit (r : Receiver) (e : Event) (i : MailboxId) : (r.emit e).slot? i = r.slot? i := rfl
@[simp] theorem slot?_raise (r : Receiver) (c : Condition) (i : MailboxId) : (r.raise c).slot? i = r.slot? i := rfl
@[simp] theorem slot?_persist (r : Receiver) (e : Event) (k : MailboxId) (b : Bool) (i : MailboxId) :
    (r.persist e k b).slot? i = r.slot? i := rfl
@[simp] theorem slot?_recompute (r : Receiver) (i : MailboxId) : r.recompute.slot? i = r.slot? i := rfl
@[simp] theorem slot?_toIdle (r : Receiver) (i : MailboxId) : r.toIdle.slot? i = r.slot? i := rfl
@[simp] theorem slot?_createSlot (r : Receiver) (i : MailboxId) (m : Slot) (j : MailboxId) :
    (r.createSlot i m).slot? j = (r.setSlot i (some m)).slot? j := rfl
@[simp] theorem slot?_register (r : Receiver) (i : MailboxId) (b : Bool) (j : MailboxId) :
    (r.register i b).slot? j = (r.setSlot i (some r.freshSlot)).slot? j := rfl
@[simp] theorem slot?_applyFrame (cfg : Config) (f : Fields) (now : Time) (wall : Wall) (b : Bool) (m : Slot) (r : Receiver)
    (j : MailboxId) :
    (r.applyFrame cfg f now wall b m).slot? j = (r.setSlot f.id (some (m.afterFrame cfg f now wall))).slot? j := rfl

/-- The ids 1 to 15 are exactly the ids that are not 0. -/
theorem mem_allIds (i : MailboxId) : i ∈ allIds ↔ i ≠ 0#4 := by
  revert i; decide

theorem nodup_allIds : allIds.Nodup := by decide

theorem mem_validSlots (r : Receiver) (i : MailboxId) (m : Slot) : (i, m) ∈ r.validSlots ↔ r.slot? i = some m := by
  simp only [Receiver.validSlots, List.mem_filterMap, Option.map_eq_some_iff, Prod.mk.injEq]
  constructor
  · rintro ⟨k, _, m', h, rfl, rfl⟩; exact h
  · intro h; exact ⟨i, (mem_allIds i).2 (ne_zero_of_slot? h), m, h, rfl, rfl⟩

/-! ### Sweeps -/

/-- A sweep writes slots and appends events; it changes nothing else. -/
theorem sweep_frame {β : Type} (f : MailboxId → Slot → Slot × List Event × β) (is : List MailboxId) (r : Receiver) :
    (r.sweep f is).1 = { r with slots := (r.sweep f is).1.slots, events := (r.sweep f is).1.events } := by
  induction is generalizing r with
  | nil => rfl
  | cons i is ih =>
    unfold Receiver.sweep
    split
    · exact ih r
    · rename_i m h
      simp only
      rw [ih]
      simp

/-- A slot that a sweep does not visit is left alone. -/
theorem sweep_slot?_other {β : Type} (f : MailboxId → Slot → Slot × List Event × β) (is : List MailboxId) (r : Receiver)
    {j : MailboxId} (hj : j ∉ is) : (r.sweep f is).1.slot? j = r.slot? j := by
  induction is generalizing r with
  | nil => rfl
  | cons i is ih =>
    simp only [List.mem_cons, not_or] at hj
    unfold Receiver.sweep
    split
    · exact ih r hj.2
    · simp only
      rw [ih _ hj.2, slot?_emitAll, slot?_setSlot_other _ hj.1]

/-- Every valid slot a sweep visits becomes what `f` makes of it. -/
theorem sweep_slot? {β : Type} (f : MailboxId → Slot → Slot × List Event × β) (is : List MailboxId) (hn : is.Nodup)
    (r : Receiver) {j : MailboxId} (hj : j ∈ is) :
    (r.sweep f is).1.slot? j = (r.slot? j).map fun m => (f j m).1 := by
  induction is generalizing r with
  | nil => cases hj
  | cons i is ih =>
    have hi := List.nodup_cons.1 hn
    unfold Receiver.sweep
    rcases List.mem_cons.1 hj with rfl | h
    · split
      · rename_i h0
        rw [sweep_slot?_other _ _ _ hi.1, h0]; rfl
      · rename_i m h0
        simp only
        rw [sweep_slot?_other _ _ _ hi.1, slot?_emitAll, slot?_setSlot_same _ (ne_zero_of_slot? h0)]
        simp [h0]
    · have hne : j ≠ i := by rintro rfl; exact hi.1 h
      split
      · exact ih hi.2 r h
      · simp only
        rw [ih hi.2 _ h, slot?_emitAll, slot?_setSlot_other _ hne]

/-- A sweep of all slots, read slot by slot. -/
theorem sweep_all_slot? {β : Type} (f : MailboxId → Slot → Slot × List Event × β) (r : Receiver) (j : MailboxId) :
    (r.sweep f allIds).1.slot? j = (r.slot? j).map fun m => (f j m).1 := by
  by_cases hj : j = 0#4
  · subst hj; simp
  · exact sweep_slot? f allIds nodup_allIds r ((mem_allIds j).2 hj)

/-- What a sweep returns and appends, in terms of the slots before it: each visited slot is read before it is written. -/
theorem sweep_results {β : Type} (f : MailboxId → Slot → Slot × List Event × β) (is : List MailboxId) (hn : is.Nodup)
    (r : Receiver) :
    (r.sweep f is).2 = is.filterMap (fun i => (r.slot? i).map fun m => (i, (f i m).2.2)) ∧
    (r.sweep f is).1.events =
      r.events ++ is.flatMap (fun i => match r.slot? i with | none => [] | some m => (f i m).2.1) := by
  induction is generalizing r with
  | nil => simp [Receiver.sweep]
  | cons i is ih =>
    have hi := List.nodup_cons.1 hn
    have hread (r' : Receiver) (h : ∀ j ∈ is, r'.slot? j = r.slot? j) :
        is.filterMap (fun i => (r'.slot? i).map fun m => (i, (f i m).2.2)) =
          is.filterMap (fun i => (r.slot? i).map fun m => (i, (f i m).2.2)) ∧
        is.flatMap (fun i => match r'.slot? i with | none => [] | some m => (f i m).2.1) =
          is.flatMap (fun i => match r.slot? i with | none => [] | some m => (f i m).2.1) := by
      constructor
      · apply List.filterMap_congr; intro j hj; rw [h j hj]
      · simp only [List.flatMap_def]; congr 1; apply List.map_congr_left; intro j hj; rw [h j hj]
    unfold Receiver.sweep
    split
    · rename_i h0
      obtain ⟨h1, h2⟩ := ih hi.2 r
      constructor
      · simp [h0, h1]
      · simp [h0, h2]
    · rename_i m h0
      simp only
      obtain ⟨h1, h2⟩ := ih hi.2 ((r.setSlot i (some (f i m).1)).emitAll (f i m).2.1)
      obtain ⟨h3, h4⟩ := hread ((r.setSlot i (some (f i m).1)).emitAll (f i m).2.1) (by
        intro j hj
        rw [slot?_emitAll, slot?_setSlot_other]
        rintro rfl; exact hi.1 hj)
      constructor
      · rw [h1, h3]; simp [h0]
      · rw [h2, h4]; simp [h0, List.append_assoc]

/-! ### The maximum alarm -/

theorem higher_code (a b : Severity) : (a.higher b).code = max a.code b.code := by
  cases a <;> cases b <;> rfl

theorem code_injective {a b : Severity} (h : a.code = b.code) : a = b := by
  cases a <;> cases b <;> first | rfl | (simp [Severity.code] at h)

theorem foldl_higher (l : List (MailboxId × Slot)) (a : Severity) :
    (a.code ≤ (l.foldl (fun a p => a.higher p.2.alarm) a).code) ∧
    (∀ p ∈ l, p.2.alarm.code ≤ (l.foldl (fun a p => a.higher p.2.alarm) a).code) ∧
    (l.foldl (fun a p => a.higher p.2.alarm) a = a ∨
      ∃ p ∈ l, p.2.alarm = l.foldl (fun a p => a.higher p.2.alarm) a) := by
  induction l generalizing a with
  | nil => simp
  | cons p l ih =>
    obtain ⟨h1, h2, h3⟩ := ih (a.higher p.2.alarm)
    rw [higher_code] at h1
    simp only [List.foldl_cons, List.mem_cons, forall_eq_or_imp, exists_eq_or_imp]
    refine ⟨by omega, ⟨by omega, h2⟩, ?_⟩
    rcases h3 with h | ⟨q, hq, he⟩
    · rw [h]
      rcases Nat.le_total a.code p.2.alarm.code with hle | hle
      · right; left
        apply code_injective; rw [higher_code]; omega
      · left; apply code_injective; rw [higher_code]; omega
    · exact .inr (.inr ⟨q, hq, he⟩)

/-- The maximum alarm is at or above every valid slot's, and is `None` or some valid slot's (R73). -/
theorem maxAlarm_spec (r : Receiver) :
    (∀ i m, r.slot? i = some m → m.alarm.code ≤ r.maxAlarm.code) ∧
    (r.maxAlarm = .noAlarm ∨ ∃ i m, r.slot? i = some m ∧ m.alarm = r.maxAlarm) := by
  obtain ⟨_, h2, h3⟩ := foldl_higher r.validSlots .noAlarm
  refine ⟨fun i m h => h2 (i, m) ((mem_validSlots r i m).2 h), ?_⟩
  rcases h3 with h | ⟨⟨i, m⟩, hp, he⟩
  · exact .inl h
  · exact .inr ⟨i, m, (mem_validSlots r i m).1 hp, he⟩

/-- The maximum alarm depends on the slots read one by one. -/
theorem maxAlarm_congr {r r' : Receiver} (h : ∀ i, r.slot? i = r'.slot? i) : r.maxAlarm = r'.maxAlarm := by
  simp only [Receiver.maxAlarm, Receiver.validSlots, h]

/-! ### Loading -/

/-- What one id's answer does (44_registry.md R324), case by case. -/
theorem loadOne_cases (i : MailboxId) (a : ProbeAnswer) (r : Receiver) :
    r.loadOne i a = (r, false) ∨
    (r.slot? i = none ∧ a = .malformed ∧ r.loadOne i a = (r.raise (.badRecord i), false)) ∨
    (∃ l w b, r.slot? i = none ∧ a = .record l w b ∧
      r.loadOne i a = (r.createSlot i (r.freshSlot.loaded l w b), true)) := by
  unfold Receiver.loadOne
  split
  · exact .inl rfl
  · rename_i h
    cases a with
    | noRecord => exact .inl rfl
    | malformed => exact .inr (.inl ⟨h, rfl, rfl⟩)
    | record l w b => exact .inr (.inr ⟨l, w, b, h, rfl, rfl⟩)

/-- A load writes slots, appends events and draws free values; it changes nothing else. -/
theorem loadAll_frame (n : Nat) (l : List (MailboxId × ProbeAnswer)) (r : Receiver) :
    (r.loadAll n l).1 =
      { r with slots := (r.loadAll n l).1.slots, events := (r.loadAll n l).1.events, draws := (r.loadAll n l).1.draws } := by
  induction l generalizing r with
  | nil => rfl
  | cons p l ih =>
    obtain ⟨i, a⟩ := p
    simp only [Receiver.loadAll]
    rw [ih]
    rcases loadOne_cases i (a.checked n) r with h | ⟨_, _, h⟩ | ⟨_, _, _, _, _, h⟩ <;> simp [h]

/-- A load leaves every slot outside its list alone. -/
theorem loadAll_slot?_other (n : Nat) (l : List (MailboxId × ProbeAnswer)) (r : Receiver) {j : MailboxId}
    (hj : ∀ p ∈ l, p.1 ≠ j) : (r.loadAll n l).1.slot? j = r.slot? j := by
  induction l generalizing r with
  | nil => rfl
  | cons p l ih =>
    obtain ⟨i, a⟩ := p
    simp only [Receiver.loadAll]
    rw [ih _ (fun p hp => hj p (List.mem_cons_of_mem _ hp))]
    have hi : j ≠ i := fun h => hj (i, a) List.mem_cons_self h.symm
    rcases loadOne_cases i (a.checked n) r with h | ⟨_, _, h⟩ | ⟨_, _, _, _, _, h⟩ <;>
      simp [h, slot?_setSlot_other _ hi]

/-- A load leaves a valid slot as it is (R324: "the in-memory entry stands"). -/
theorem loadAll_slot?_valid (n : Nat) (l : List (MailboxId × ProbeAnswer)) (r : Receiver) {j : MailboxId} {m : Slot}
    (hm : r.slot? j = some m) : (r.loadAll n l).1.slot? j = some m := by
  induction l generalizing r with
  | nil => exact hm
  | cons p l ih =>
    obtain ⟨i, a⟩ := p
    simp only [Receiver.loadAll]
    apply ih
    rcases loadOne_cases i (a.checked n) r with h | ⟨_, _, h⟩ | ⟨_, _, _, h0, _, h⟩
    · simpa [h] using hm
    · simpa [h] using hm
    · have hi : j ≠ i := by rintro rfl; rw [hm] at h0; cases h0
      simpa [h, slot?_setSlot_other _ hi] using hm

/-- Every slot after a load is one that stood before it or one a fitting record made (R324, R382). -/
theorem loadAll_slot?_cases (n : Nat) (l : List (MailboxId × ProbeAnswer)) (r : Receiver) {j : MailboxId} {m : Slot}
    (hm : (r.loadAll n l).1.slot? j = some m) :
    r.slot? j = some m ∨
    (r.slot? j = none ∧ ∃ lab w b d, (j, ProbeAnswer.record lab w b) ∈ l ∧ lab.length ≤ n ∧
      m = (Slot.fresh (Config.freePendT0 d)).loaded lab w b) := by
  induction l generalizing r with
  | nil => exact .inl hm
  | cons p l ih =>
    obtain ⟨i, a⟩ := p
    simp only [Receiver.loadAll] at hm
    rcases ih _ hm with h | ⟨h0, lab, w, b, d, hmem, hlen, he⟩
    · rcases loadOne_cases i (a.checked n) r with h1 | ⟨_, _, h1⟩ | ⟨lab, w, b, h0, ha, h1⟩
      · left; simpa [h1] using h
      · left; simpa [h1] using h
      · by_cases hj : j = i
        · subst hj
          rw [h1] at h
          by_cases hz : j = 0#4
          · subst hz; simp at h
          · simp only [slot?_createSlot, slot?_setSlot_same _ hz, Option.some.injEq] at h
            right
            refine ⟨h0, lab, w, b, r.draws, ?_, ?_, h.symm⟩
            · cases a with
              | noRecord => cases ha
              | malformed => cases ha
              | record lab' w' b' =>
                simp only [ProbeAnswer.checked] at ha
                split at ha
                · cases ha; exact List.mem_cons_self
                · cases ha
            · cases a with
              | noRecord => cases ha
              | malformed => cases ha
              | record lab' w' b' =>
                simp only [ProbeAnswer.checked] at ha
                split at ha
                · cases ha; assumption
                · cases ha
        · left; simpa [h1, slot?_setSlot_other _ hj] using h
    · right
      refine ⟨?_, lab, w, b, d, List.mem_cons_of_mem _ hmem, hlen, he⟩
      rcases loadOne_cases i (a.checked n) r with h1 | ⟨_, _, h1⟩ | ⟨lab', w', b', h2, _, h1⟩
      · simpa [h1] using h0
      · simpa [h1] using h0
      · by_cases hj : j = i
        · subst hj; exact h2
        · simpa [h1, slot?_setSlot_other _ hj] using h0

end Sys2Proof.Machine
end

