-- ==== Sys2Proof/Laws/Receiver.lean ====
section
/-! SUPPORT. The receiver's operations, case by case: taking one byte (41_receiver.md R203 to R207), the deadline (R209), the loop
over bytes (R210), and what a dispatch reads and writes (44_registry.md R314). -/

namespace Sys2Proof.Machine

/-! ### One byte -/

theorem rxState_cases (r : Receiver) : r.rxState = .idle ∨ r.rxState = .assembling := by
  cases r.rxState
  · exact .inl rfl
  · exact .inr rfl

/-- Step 1 and 2 of R201: a byte taken in `Idle`. -/
theorem takeByte_idle (cfg : Config) (b : Byte) (now : Time) (r : Receiver) (h : r.rxState = .idle) :
    r.takeByte cfg b now =
      if b.toNat / 16 ≠ cfg.protoVersion.toNat then (r.startFrame b now).toIdle.raise (.badVersion b)
      else if b.toNat % 16 ≠ cfg.ownAddr.toNat ∧ b.toNat % 16 ≠ 0 then
        (r.startFrame b now).toIdle.raise (.badAddress b)
      else r.startFrame b now := by
  have e : (r.startFrame b now).rxBuf[0] = b := by simp
  simp only [Receiver.takeByte, h, Receiver.validateFirst, ver_ne_iff, addressTaken_eq_false, e]

/-- Step 3 of R201: a byte that does not complete the frame. -/
theorem takeByte_middle (cfg : Config) (b : Byte) (now : Time) (r : Receiver) (h : r.rxState = .assembling)
    (hc : r.rxCount ≠ 7) :
    r.takeByte cfg b now = { r with rxBuf := r.rxBuf.set r.rxCount.val b, rxCount := r.rxCount + 1 } := by
  simp only [Receiver.takeByte, h, if_neg hc]

/-- Step 4 of R201: the eighth byte. -/
theorem takeByte_last (cfg : Config) (b : Byte) (now : Time) (r : Receiver) (h : r.rxState = .assembling)
    (hc : r.rxCount = 7) :
    r.takeByte cfg b now =
      if xorAll (r.rxBuf.set 7 b) = 0#8 then
        { r with rxBuf := r.rxBuf.set 7 b, rxMsgValid := true, rxArmed := false, rxState := .idle, rxCount := 0 }
      else
        { r with
          rxBuf := r.rxBuf.set 7 b, rxState := .idle, rxCount := 0
          events := r.events ++ [.condition (.badChecksum (r.rxBuf.set 7 b))] } := by
  simp only [Receiver.takeByte, h, if_pos hc, Receiver.complete, frameChecksumOk_eq, decide_eq_true_eq]
  split <;> rfl

/-- Taking a byte touches no mailbox. -/
theorem takeByte_registry (cfg : Config) (b : Byte) (now : Time) (r : Receiver) :
    (r.takeByte cfg b now).slots = r.slots ∧ (r.takeByte cfg b now).globalAlarm = r.globalAlarm ∧
    (r.takeByte cfg b now).draws = r.draws := by
  rcases rxState_cases r with h | h
  · rw [takeByte_idle _ _ _ _ h]
    split
    · simp
    · split <;> simp
  · by_cases hc : r.rxCount = 7
    · rw [takeByte_last _ _ _ _ h hc]; split <;> simp
    · rw [takeByte_middle _ _ _ _ h hc]; simp

/-- Taking a byte with another event queue: the same, with the same events appended. -/
theorem takeByte_events (cfg : Config) (b : Byte) (now : Time) (r : Receiver) :
    ∃ new, ∀ q, ({ r with events := q } : Receiver).takeByte cfg b now =
      { r.takeByte cfg b now with events := q ++ new } := by
  rcases rxState_cases r with h | h
  · by_cases h1 : b.toNat / 16 ≠ cfg.protoVersion.toNat
    · refine ⟨[.condition (.badVersion b)], fun q => ?_⟩
      rw [takeByte_idle _ _ _ _ h, takeByte_idle _ _ _ _ (by exact h), if_pos h1, if_pos h1]; rfl
    · by_cases h2 : b.toNat % 16 ≠ cfg.ownAddr.toNat ∧ b.toNat % 16 ≠ 0
      · refine ⟨[.condition (.badAddress b)], fun q => ?_⟩
        rw [takeByte_idle _ _ _ _ h, takeByte_idle _ _ _ _ (by exact h), if_neg h1, if_neg h1, if_pos h2, if_pos h2]
        rfl
      · refine ⟨[], fun q => ?_⟩
        rw [takeByte_idle _ _ _ _ h, takeByte_idle _ _ _ _ (by exact h), if_neg h1, if_neg h1, if_neg h2, if_neg h2,
          List.append_nil]
        rfl
  · by_cases hc : r.rxCount = 7
    · by_cases hx : xorAll (r.rxBuf.set 7 b) = 0#8
      · refine ⟨[], fun q => ?_⟩
        rw [takeByte_last _ _ _ _ h hc, takeByte_last _ _ _ _ (by exact h) (by exact hc), if_pos hx, if_pos hx,
          List.append_nil]
      · refine ⟨[.condition (.badChecksum (r.rxBuf.set 7 b))], fun q => ?_⟩
        rw [takeByte_last _ _ _ _ h hc, takeByte_last _ _ _ _ (by exact h) (by exact hc), if_neg hx, if_neg hx]
    · refine ⟨[], fun q => ?_⟩
      rw [takeByte_middle _ _ _ _ h hc, takeByte_middle _ _ _ _ (by exact h) (by exact hc), List.append_nil]

/-! ### The deadline -/

/-- `elapsed` in natural numbers (00_scope.md R44). -/
theorem elapsed_eq (now t0 : Time) : elapsed now t0 = (now.toNat + 2 ^ 32 - t0.toNat) % 2 ^ 32 := by
  have := now.isLt
  have := t0.isLt
  simp only [elapsed, BitVec.toNat_sub]; omega

/-- `RX_TICK` does nothing in `Idle` (R209). -/
theorem tick_idle (cfg : Config) (now : Time) (r : Receiver) (h : r.rxState = .idle) : r.tick cfg now = (r, false) := by
  simp [Receiver.tick, Receiver.deadlinePassed, h]

/-- `RX_TICK` either changes nothing or drops the partial frame and reports it (R209). -/
theorem tick_cases (cfg : Config) (now : Time) (r : Receiver) :
    r.tick cfg now = (r, false) ∨
    (r.rxState = .assembling ∧ r.tick cfg now =
      ({ r with rxState := .idle, rxCount := 0, events := r.events ++ [.condition (.rxTimeout r.rxCount.val)] }, true)) := by
  unfold Receiver.tick
  split
  · rename_i h
    simp only [Receiver.deadlinePassed, Bool.and_eq_true, beq_iff_eq] at h
    exact .inr ⟨h.1, rfl⟩
  · exact .inl rfl

/-- The deadline touches no mailbox. -/
theorem tick_registry (cfg : Config) (now : Time) (r : Receiver) :
    (r.tick cfg now).1.slots = r.slots ∧ (r.tick cfg now).1.globalAlarm = r.globalAlarm ∧
    (r.tick cfg now).1.draws = r.draws := by
  rcases tick_cases cfg now r with h | ⟨_, h⟩ <;> simp [h]

/-- The deadline with another event queue. -/
theorem tick_events (cfg : Config) (now : Time) (r : Receiver) :
    ∃ new, ∀ q, ({ r with events := q } : Receiver).tick cfg now =
      ({ (r.tick cfg now).1 with events := q ++ new }, (r.tick cfg now).2) := by
  by_cases h : r.deadlinePassed cfg now = true
  · refine ⟨[.condition (.rxTimeout r.rxCount.val)], fun q => ?_⟩
    have h' : ({ r with events := q } : Receiver).deadlinePassed cfg now = true := h
    rw [Receiver.tick, Receiver.tick, if_pos h, if_pos h']; rfl
  · refine ⟨[], fun q => ?_⟩
    have h' : ¬ ({ r with events := q } : Receiver).deadlinePassed cfg now = true := h
    rw [Receiver.tick, Receiver.tick, if_neg h, if_neg h', List.append_nil]

/-! ### The loop over bytes -/

theorem feed_cons_armed (cfg : Config) (now : Time) (b : Byte) (bs : List Byte) (r : Receiver) (h : r.rxArmed = true) :
    r.feed cfg now (b :: bs) =
      (((r.takeByte cfg b now).feed cfg now bs).1, ((r.takeByte cfg b now).feed cfg now bs).2 + 1) := by
  rw [Receiver.feed, if_pos h]

/-- A receiver that is not listening takes no byte (R210). -/
theorem feed_not_armed (cfg : Config) (now : Time) (bs : List Byte) (r : Receiver) (h : r.rxArmed = false) :
    r.feed cfg now bs = (r, 0) := by
  cases bs <;> simp [Receiver.feed, h]

/-- What holds of the receiver and is kept by every byte it takes holds after the loop. -/
theorem feed_induction {P : Receiver → Prop} (cfg : Config) (now : Time)
    (step : ∀ b r, r.rxArmed = true → P r → P (r.takeByte cfg b now)) (bs : List Byte) (r : Receiver) (h : P r) :
    P (r.feed cfg now bs).1 := by
  induction bs generalizing r with
  | nil => exact h
  | cons b bs ih =>
    rcases Bool.eq_false_or_eq_true r.rxArmed with ha | ha
    · rw [feed_cons_armed _ _ _ _ _ ha]; exact ih _ (step b r ha h)
    · rwa [feed_not_armed _ _ _ _ ha]

/-- The loop touches no mailbox and takes at most the bytes offered. -/
theorem feed_registry (cfg : Config) (now : Time) (bs : List Byte) (r : Receiver) :
    (r.feed cfg now bs).1.slots = r.slots ∧ (r.feed cfg now bs).1.globalAlarm = r.globalAlarm ∧
    (r.feed cfg now bs).1.draws = r.draws ∧ (r.feed cfg now bs).2 ≤ bs.length := by
  induction bs generalizing r with
  | nil => simp [Receiver.feed]
  | cons b bs ih =>
    unfold Receiver.feed
    split
    · obtain ⟨h1, h2, h3, h4⟩ := ih (r.takeByte cfg b now)
      obtain ⟨k1, k2, k3⟩ := takeByte_registry cfg b now r
      simp only [h1, h2, h3, k1, k2, k3, List.length_cons]
      simp [h4]
    · simp

/-- The loop with another event queue. -/
theorem feed_events (cfg : Config) (now : Time) (bs : List Byte) (r : Receiver) :
    ∃ new, ∀ q, ({ r with events := q } : Receiver).feed cfg now bs =
      ({ (r.feed cfg now bs).1 with events := q ++ new }, (r.feed cfg now bs).2) := by
  induction bs generalizing r with
  | nil => exact ⟨[], fun q => by rw [List.append_nil]; rfl⟩
  | cons b bs ih =>
    rcases Bool.eq_false_or_eq_true r.rxArmed with h | h
    on_goal 2 =>
      exact ⟨[], fun q => by rw [feed_not_armed _ _ _ _ h, feed_not_armed _ _ _ _ (by exact h), List.append_nil]⟩
    · obtain ⟨n1, h1⟩ := takeByte_events cfg b now r
      obtain ⟨n2, h2⟩ := ih (r.takeByte cfg b now)
      refine ⟨n1 ++ n2, fun q => ?_⟩
      rw [feed_cons_armed _ _ _ _ _ h, feed_cons_armed _ _ _ _ _ (by exact h), h1 q, h2 (q ++ n1), List.append_assoc]

/-- Eight bytes offered in listening idle, the first of them good (R214). -/
theorem feed_frame (cfg : Config) (F : Frame) (now : Time) (r : Receiver) (h : r.ListeningIdle)
    (hg : FirstByteGood cfg F[0]) :
    r.feed cfg now F.toList =
      (if xorAll F = 0#8 then
        { r with rxBuf := F, rxT0 := now, rxMsgValid := true, rxArmed := false, rxState := .idle, rxCount := 0 }
      else
        { r with
          rxBuf := F, rxT0 := now, rxState := .idle, rxCount := 0
          events := r.events ++ [.condition (.badChecksum F)] }, 8) := by
  obtain ⟨ha, hs, _⟩ := h
  rw [frame_toList, feed_cons_armed _ _ _ _ _ ha, takeByte_idle _ _ _ _ hs, if_neg ((firstByteGood_iff _ _).1 hg).1,
    if_neg ((firstByteGood_iff _ _).1 hg).2]
  have hbuf : ((((((((r.rxBuf.set 0 F[0]).set 1 F[1]).set 2 F[2]).set 3 F[3]).set 4 F[4]).set 5 F[5]).set 6
      F[6]).set 7 F[7]) = F := by
    apply frame_ext8 <;> simp
  have next (k : Nat) (hk : k < 7) (b : Byte) (bs : List Byte) (r : Receiver) (ha : r.rxArmed = true)
      (hs : r.rxState = .assembling) (hc : r.rxCount.val = k) :
      r.feed cfg now (b :: bs) =
        ((Receiver.feed cfg now bs { r with rxBuf := r.rxBuf.set k b, rxCount := r.rxCount + 1 }).1,
         (Receiver.feed cfg now bs { r with rxBuf := r.rxBuf.set k b, rxCount := r.rxCount + 1 }).2 + 1) := by
    rw [feed_cons_armed _ _ _ _ _ ha, takeByte_middle _ _ _ _ hs (by intro e; rw [e] at hc; simp at hc; omega)]
    subst hc; rfl
  rw [next 1 (by omega) _ _ _ (by exact ha) rfl rfl, next 2 (by omega) _ _ _ (by exact ha) rfl rfl,
    next 3 (by omega) _ _ _ (by exact ha) rfl rfl, next 4 (by omega) _ _ _ (by exact ha) rfl rfl,
    next 5 (by omega) _ _ _ (by exact ha) rfl rfl, next 6 (by omega) _ _ _ (by exact ha) rfl rfl,
    feed_cons_armed _ _ _ _ _ (by exact ha), takeByte_last _ _ _ _ (by rfl) (by rfl)]
  simp only [Receiver.startFrame, hbuf, Receiver.feed]

/-! ### What the registry's operations read and write -/

/-- Writing a slot reads and writes the slot file only. -/
theorem setSlot_eq {r r' : Receiver} (h : r'.slots = r.slots) (i : MailboxId) (m : Option Slot) :
    r'.setSlot i m = { r' with slots := (r.setSlot i m).slots } := by
  unfold Receiver.setSlot
  split
  · rw [← h]
  · simp only [h]

theorem setSlot_frame (r : Receiver) (i : MailboxId) (m : Option Slot) :
    r.setSlot i m = { r with slots := (r.setSlot i m).slots } := setSlot_eq rfl i m

/-- A sweep reads the slot file only, writes the slot file, and appends events. -/
theorem sweep_local {β : Type} (f : MailboxId → Slot → Slot × List Event × β) (is : List MailboxId) (r : Receiver) :
    ∃ new, ∀ r' : Receiver, r'.slots = r.slots →
      r'.sweep f is =
        ({ r' with slots := (r.sweep f is).1.slots, events := r'.events ++ new }, (r.sweep f is).2) := by
  induction is generalizing r with
  | nil => exact ⟨[], fun r' h => by simp only [Receiver.sweep, ← h, List.append_nil]⟩
  | cons i is ih =>
    rcases hm : r.slot? i with _ | m
    · obtain ⟨new, h⟩ := ih r
      refine ⟨new, fun r' hs => ?_⟩
      have hm' : r'.slot? i = none := by rw [slot?_congr hs]; exact hm
      simp only [Receiver.sweep, hm, hm']
      exact h r' hs
    · obtain ⟨new, h⟩ := ih ((r.setSlot i (some (f i m).1)).emitAll (f i m).2.1)
      refine ⟨(f i m).2.1 ++ new, fun r' hs => ?_⟩
      have hm' : r'.slot? i = some m := by rw [slot?_congr hs]; exact hm
      have he : ((r'.setSlot i (some (f i m).1)).emitAll (f i m).2.1).slots =
          ((r.setSlot i (some (f i m).1)).emitAll (f i m).2.1).slots := by
        rw [setSlot_eq hs]; rfl
      simp only [Receiver.sweep, hm, hm']
      rw [h _ he]
      rw [setSlot_eq hs]
      simp only [Receiver.emitAll, List.append_assoc]

/-- One id of a load reads the slot file and the free-value counter only. -/
theorem loadOne_local (i : MailboxId) (a : ProbeAnswer) (r : Receiver) :
    ∃ new, ∀ r' : Receiver, r'.slots = r.slots → r'.draws = r.draws →
      r'.loadOne i a =
        ({ r' with
           slots := (r.loadOne i a).1.slots, events := r'.events ++ new, draws := (r.loadOne i a).1.draws },
         (r.loadOne i a).2) := by
  rcases hm : r.slot? i with _ | m
  · have hm' (r' : Receiver) (hs : r'.slots = r.slots) : r'.slot? i = none := by rw [slot?_congr hs]; exact hm
    cases a with
    | noRecord =>
      exact ⟨[], fun r' hs hd => by simp only [Receiver.loadOne, hm, hm' r' hs, ← hs, ← hd, List.append_nil]⟩
    | malformed =>
      refine ⟨[.condition (.badRecord i)], fun r' hs hd => ?_⟩
      simp only [Receiver.loadOne, hm, hm' r' hs, Receiver.raise_slots, Receiver.raise_draws, ← hs, ← hd]; rfl
    | record l w b =>
      refine ⟨[], fun r' hs hd => ?_⟩
      have hf : r'.freshSlot = r.freshSlot := by simp only [Receiver.freshSlot, hd]
      simp only [Receiver.loadOne, hm, hm' r' hs, Receiver.createSlot, hf, setSlot_eq hs, hd, List.append_nil]
  · refine ⟨[], fun r' hs hd => ?_⟩
    have hm' : r'.slot? i = some m := by rw [slot?_congr hs]; exact hm
    simp only [Receiver.loadOne, hm, hm', ← hs, ← hd, List.append_nil]

/-- A load reads the slot file and the free-value counter only, writes both, and appends events. -/
theorem loadAll_local (n : Nat) (l : List (MailboxId × ProbeAnswer)) (r : Receiver) :
    ∃ new, ∀ r' : Receiver, r'.slots = r.slots → r'.draws = r.draws →
      r'.loadAll n l =
        ({ r' with
           slots := (r.loadAll n l).1.slots, events := r'.events ++ new, draws := (r.loadAll n l).1.draws },
         (r.loadAll n l).2) := by
  induction l generalizing r with
  | nil => exact ⟨[], fun r' hs hd => by simp only [Receiver.loadAll, ← hs, ← hd, List.append_nil]⟩
  | cons p l ih =>
    obtain ⟨i, a⟩ := p
    obtain ⟨n1, h1⟩ := loadOne_local i (a.checked n) r
    obtain ⟨n2, h2⟩ := ih (r.loadOne i (a.checked n)).1
    refine ⟨n1 ++ n2, fun r' hs hd => ?_⟩
    have e := h2 (r'.loadOne i (a.checked n)).1 (by rw [h1 r' hs hd]) (by rw [h1 r' hs hd])
    simp only [Receiver.loadAll]
    rw [e, h1 r' hs hd]
    simp only [List.append_assoc]

/-- The maximum alarm reads the slot file only. -/
theorem maxAlarm_eq {r r' : Receiver} (h : r'.slots = r.slots) : r'.maxAlarm = r.maxAlarm :=
  maxAlarm_congr (slot?_congr h)

/-- Recomputing makes the global alarm the maximum (10_state.md R73). -/
theorem recompute_globalOk (r : Receiver) : r.recompute.GlobalOk := by
  obtain ⟨h1, h2⟩ := maxAlarm_spec r
  exact ⟨h1, h2⟩

/-- The maximum is the only alarm that is one. -/
theorem globalAlarm_eq_of_globalOk {r : Receiver} (h : r.GlobalOk) : r.globalAlarm = r.maxAlarm := by
  obtain ⟨h1, h2⟩ := maxAlarm_spec r
  apply code_injective
  apply Nat.le_antisymm
  · rcases h.attained with e | ⟨i, m, hm, e⟩
    · rw [e]; exact Nat.zero_le _
    · rw [← e]; exact h1 i m hm
  · rcases h2 with e | ⟨i, m, hm, e⟩
    · rw [e]; exact Nat.zero_le _
    · rw [← e]; exact h.above i m hm

/-- Applying a frame reads the slot it is given and writes slots and events only. -/
theorem applyFrame_eq {r r' : Receiver} (h : r'.slots = r.slots) (cfg : Config) (f : Fields) (now : Time) (wall : Wall)
    (fails : Bool) (m : Slot) :
    r'.applyFrame cfg f now wall fails m =
      { r' with
        slots := (r.applyFrame cfg f now wall fails m).slots
        events := r'.events ++ m.frameEvents cfg f ++ persistEvents (.persistWrite f.id m.label wall f.battery) f.id fails } := by
  simp only [Receiver.applyFrame, setSlot_eq h]; rfl

/-- Registering a slot reads the slot file and the free-value counter and writes slots, events and that counter only. -/
theorem register_eq {r r' : Receiver} (h : r'.slots = r.slots) (hd : r'.draws = r.draws) (i : MailboxId) (fails : Bool) :
    r'.register i fails =
      { r' with
        slots := (r.register i fails).slots, draws := r.draws + 1
        events := r'.events ++ persistEvents (.persistWrite i [] none battUnknown) i fails } := by
  simp only [Receiver.register, Receiver.createSlot, Receiver.freshSlot, hd, setSlot_eq h]; rfl

/-- A dispatch reads the slot file and the free-value counter only, writes slots, the global alarm and that counter, and appends
events: with the same slots and counter its answer is the same, whatever else the receiver holds. -/
theorem dispatch_local (cfg : Config) (f : Fields) (env : DispatchEnv) (r : Receiver) :
    ∃ (new : List Event) (g : Option Severity), ∀ r' : Receiver, r'.slots = r.slots → r'.draws = r.draws →
      r'.dispatch cfg f env =
        ({ r' with
           slots := (r.dispatch cfg f env).1.slots
           events := r'.events ++ new
           globalAlarm := g.getD r'.globalAlarm
           draws := (r.dispatch cfg f env).1.draws }, (r.dispatch cfg f env).2) := by
  by_cases h0 : f.id = 0#4
  · refine ⟨[.condition (.invalidId 0#4)], none, fun r' hs hd => ?_⟩
    simp only [Receiver.dispatch, h0, if_true, Receiver.raise_slots, Receiver.raise_draws, Option.getD_none, ← hs, ← hd]
    rfl
  · rcases hm : r.slot? f.id with _ | m
    · refine ⟨persistEvents (.persistWrite f.id [] none battUnknown) f.id env.createFails ++
        r.freshSlot.frameEvents cfg f ++
        persistEvents (.persistWrite f.id r.freshSlot.label env.wall f.battery) f.id env.applyFails,
        some (r.dispatch cfg f env).1.globalAlarm, fun r' hs hd => ?_⟩
      have hm' : r'.slot? f.id = none := by rw [slot?_congr hs]; exact hm
      have hf : r'.freshSlot = r.freshSlot := by simp only [Receiver.freshSlot, hd]
      simp only [Receiver.dispatch, h0, if_false, hm, hm', hf]
      have hreg : (r'.register f.id env.createFails).slots = (r.register f.id env.createFails).slots := by
        rw [register_eq hs hd]
      have e1 := applyFrame_eq hreg cfg f env.now env.wall env.applyFails r.freshSlot
      have hsl : ((r'.register f.id env.createFails).applyFrame cfg f env.now env.wall env.applyFails r.freshSlot).slots =
          ((r.register f.id env.createFails).applyFrame cfg f env.now env.wall env.applyFails r.freshSlot).slots := by
        rw [e1]
      have e2 := maxAlarm_eq hsl
      simp only [Receiver.recompute, e2, Option.getD_some, Prod.mk.injEq, and_true]
      rw [e1, register_eq hs hd]
      simp only [Receiver.applyFrame_draws, Receiver.register_draws, List.append_assoc]
    · refine ⟨m.frameEvents cfg f ++ persistEvents (.persistWrite f.id m.label env.wall f.battery) f.id env.applyFails,
        some (r.dispatch cfg f env).1.globalAlarm, fun r' hs hd => ?_⟩
      have hm' : r'.slot? f.id = some m := by rw [slot?_congr hs]; exact hm
      simp only [Receiver.dispatch, h0, if_false, hm, hm']
      have e1 := applyFrame_eq hs cfg f env.now env.wall env.applyFails m
      have hsl : (r'.applyFrame cfg f env.now env.wall env.applyFails m).slots =
          (r.applyFrame cfg f env.now env.wall env.applyFails m).slots := by rw [e1]
      have e2 := maxAlarm_eq hsl
      simp only [Receiver.recompute, e2, Option.getD_some, Prod.mk.injEq, and_true]
      rw [e1]
      simp only [Receiver.applyFrame_draws, hd, List.append_assoc]

/-! ### What a load makes of each id -/

/-- The events that stood before a load still stand after it. -/
theorem loadAll_events_mem (n : Nat) (l : List (MailboxId × ProbeAnswer)) (r : Receiver) {e : Event} (h : e ∈ r.events) :
    e ∈ (r.loadAll n l).1.events := by
  obtain ⟨new, hl⟩ := loadAll_local n l r
  rw [hl r rfl rfl]
  exact List.mem_append_left _ h

/-- The ids a load lists are ids of its list that were not valid before. -/
theorem loadAll_ids (n : Nat) (l : List (MailboxId × ProbeAnswer)) (r : Receiver) {i : MailboxId}
    (h : i ∈ (r.loadAll n l).2) : r.slot? i = none ∧ i ∈ l.map Prod.fst := by
  induction l generalizing r with
  | nil => cases h
  | cons p l ih =>
    obtain ⟨k, a⟩ := p
    have back (h : i ∈ ((r.loadOne k (a.checked n)).1.loadAll n l).2) :
        r.slot? i = none ∧ i ∈ ((k, a) :: l).map Prod.fst := by
      obtain ⟨h1, h2⟩ := ih _ h
      refine ⟨?_, List.mem_cons_of_mem _ h2⟩
      rcases hm : r.slot? i with _ | m
      · rfl
      · have := loadAll_slot?_valid n [(k, a)] r hm
        simp only [Receiver.loadAll] at this
        rw [h1] at this; cases this
    simp only [Receiver.loadAll] at h
    split at h
    · rename_i h1
      rcases List.mem_cons.1 h with rfl | h
      · refine ⟨?_, List.mem_cons_self⟩
        rcases loadOne_cases i (a.checked n) r with e | ⟨h0, _, e⟩ | ⟨_, _, _, h0, _, e⟩
        · rw [e] at h1; cases h1
        · exact h0
        · exact h0
      · exact back h
    · exact back h

/-- What a load makes of one id that was not valid (44_registry.md R324), in a list that names each id once. -/
theorem loadAll_slot?_of_mem (n : Nat) (l : List (MailboxId × ProbeAnswer)) (hn : (l.map Prod.fst).Nodup) (r : Receiver)
    {i : MailboxId} {a : ProbeAnswer} (hm : (i, a) ∈ l) (hi : i ≠ 0#4) (h : r.slot? i = none) :
    match a.checked n with
    | .record label lastSeen battery =>
      i ∈ (r.loadAll n l).2 ∧
        ∃ d, (r.loadAll n l).1.slot? i = some ((Slot.fresh (Config.freePendT0 d)).loaded label lastSeen battery)
    | .malformed =>
      (r.loadAll n l).1.slot? i = none ∧ i ∉ (r.loadAll n l).2 ∧
        Event.condition (.badRecord i) ∈ (r.loadAll n l).1.events
    | .noRecord => (r.loadAll n l).1.slot? i = none ∧ i ∉ (r.loadAll n l).2 := by
  induction l generalizing r with
  | nil => cases hm
  | cons p l ih =>
    obtain ⟨k, b⟩ := p
    simp only [List.map_cons, List.nodup_cons] at hn
    rcases List.mem_cons.1 hm with e | hm
    · cases e
      have hother (r' : Receiver) : (r'.loadAll n l).1.slot? i = r'.slot? i :=
        loadAll_slot?_other n l r' fun p hp e => hn.1 (by rw [← e]; exact List.mem_map_of_mem hp)
      have hids (r' : Receiver) : i ∉ (r'.loadAll n l).2 := fun e => hn.1 (loadAll_ids n l r' e).2
      rcases ha : a.checked n with _ | ⟨lab, w, bt⟩ | _
      · simp only [Receiver.loadAll, Receiver.loadOne, h, ha, hother]
        exact ⟨trivial, hids _⟩
      · simp only [Receiver.loadAll, Receiver.loadOne, h, ha, hother, if_true, slot?_createSlot, slot?_setSlot_same _ hi]
        exact ⟨List.mem_cons_self, r.draws, rfl⟩
      · simp only [Receiver.loadAll, Receiver.loadOne, h, ha, hother, slot?_raise]
        refine ⟨trivial, hids _, loadAll_events_mem _ _ _ ?_⟩
        simp
    · have hk : i ≠ k := fun e => hn.1 (by rw [← e]; exact List.mem_map_of_mem hm)
      have h' : (r.loadOne k (b.checked n)).1.slot? i = none := by
        rcases loadOne_cases k (b.checked n) r with e | ⟨_, _, e⟩ | ⟨_, _, _, _, _, e⟩ <;>
          simp [e, h, slot?_setSlot_other _ hk]
      have := ih hn.2 (r.loadOne k (b.checked n)).1 hm h'
      have hids : i ∈ (r.loadAll n ((k, b) :: l)).2 ↔ i ∈ ((r.loadOne k (b.checked n)).1.loadAll n l).2 := by
        simp only [Receiver.loadAll]
        split
        · simp [hk]
        · rfl
      simp only [hids]
      exact this

/-- Whether an answer, as a load takes it, is a record. -/
def isRecord : ProbeAnswer → Bool
  | .record _ _ _ => true
  | .noRecord | .malformed => false

/-- What a load lists and reports (R324), in terms of the slots before it: each id is read before it is written. -/
theorem loadAll_results (n : Nat) (l : List (MailboxId × ProbeAnswer)) (hn : (l.map Prod.fst).Nodup) (r : Receiver) :
    (r.loadAll n l).2 = (l.filter fun p => decide (r.slot? p.1 = none) && isRecord (p.2.checked n)).map Prod.fst ∧
    (r.loadAll n l).1.events = r.events ++
      (l.filter fun p => decide (r.slot? p.1 = none) && decide (p.2.checked n = .malformed)).map
        fun p => .condition (.badRecord p.1) := by
  induction l generalizing r with
  | nil => simp [Receiver.loadAll]
  | cons p l ih =>
    obtain ⟨i, a⟩ := p
    simp only [List.map_cons, List.nodup_cons] at hn
    have hslot (p) (hp : p ∈ l) : (r.loadOne i (a.checked n)).1.slot? p.1 = r.slot? p.1 := by
      have hk : p.1 ≠ i := fun e => hn.1 (by rw [← e]; exact List.mem_map_of_mem hp)
      rcases loadOne_cases i (a.checked n) r with e | ⟨_, _, e⟩ | ⟨_, _, _, _, _, e⟩ <;>
        simp [e, slot?_setSlot_other _ hk]
    obtain ⟨h1, h2⟩ := ih hn.2 (r.loadOne i (a.checked n)).1
    have c1 := List.filter_congr (l := l) (p := fun p => decide ((r.loadOne i (a.checked n)).1.slot? p.1 = none) &&
      isRecord (p.2.checked n)) (q := fun p => decide (r.slot? p.1 = none) && isRecord (p.2.checked n))
      fun p hp => by rw [hslot p hp]
    have c2 := List.filter_congr (l := l) (p := fun p => decide ((r.loadOne i (a.checked n)).1.slot? p.1 = none) &&
      decide (p.2.checked n = .malformed)) (q := fun p => decide (r.slot? p.1 = none) &&
      decide (p.2.checked n = .malformed)) fun p hp => by rw [hslot p hp]
    rw [c1] at h1
    rw [c2] at h2
    simp only [Receiver.loadAll, h1, h2]
    rcases hm : r.slot? i with _ | m
    · rcases ha : a.checked n with _ | ⟨lab, w, b⟩ | _
      · simp [Receiver.loadOne, hm, ha, isRecord]
      · simp [Receiver.loadOne, hm, ha, isRecord]
      · simp [Receiver.loadOne, hm, ha, isRecord]
    · simp [Receiver.loadOne, hm]

end Sys2Proof.Machine
end

