-- ==== Sys2Proof/Laws/Sensor.lean ====
section
/-! SUPPORT. The sensor's arithmetic in numbers: the sequence advance (40_codec.md R177), the settle test (42_transmitter.md R238),
the battery mapping and blend (R241, R243), and what a configuration that meets 00_scope.md R36 gives them. -/

namespace Sys2Proof.Machine

/-- `NEXT_SEQ` in natural numbers (R177). -/
theorem seqAfter_toNat (c : SeqNo) : (seqAfter c).toNat = if c.toNat = 65535 then 2 else c.toNat + 1 := by
  have := c.isLt
  unfold seqAfter
  split
  · rename_i h
    have h := congrArg BitVec.toNat h
    simp only [BitVec.toNat_add, BitVec.toNat_ofNat] at h
    rw [if_pos (by omega)]; rfl
  · rename_i h
    have h : ¬ (c + 1#16).toNat = (0#16).toNat := fun e => h (BitVec.eq_of_toNat_eq e)
    simp only [BitVec.toNat_add, BitVec.toNat_ofNat] at h ⊢
    rw [if_neg (by omega)]; omega

theorem settling_eq (now : Time) (t : Sensor) :
    t.settling now = decide ((now.toNat + 2 ^ 32 - t.txBusyT0.toNat) % 2 ^ 32 < t.txBusyDur) := by
  simp only [Sensor.settling, elapsed_eq]

theorem clamp_eq (v lo hi : Int) (h : lo ≤ hi) : clamp v lo hi = max lo (min v hi) := by
  unfold clamp; split
  · omega
  · split <;> omega

theorem adc_of_wf {c : Config} (h : c.wf = true) : c.adcMin < c.adcMax ∧ 1 ≤ c.emaDiv := by
  simp only [Config.wf, List.all_cons, id_eq, Bool.and_eq_true, decide_eq_true_eq] at h
  omega

/-- The mapped reading is a percentage (R241). -/
theorem battPercent_range (c : Config) (raw : Int) (h : c.adcMin < c.adcMax) :
    0 ≤ battPercent c raw ∧ battPercent c raw ≤ 100 := by
  unfold battPercent
  rw [clamp_eq _ _ _ (by omega)]
  have h0 : 0 < c.adcMax - c.adcMin := by omega
  constructor
  · apply Int.ediv_nonneg <;> omega
  · apply Int.le_of_lt_add_one
    rw [Int.ediv_lt_iff_lt_mul h0]
    nlinarith [le_max_left c.adcMin (min raw c.adcMax), min_le_right raw c.adcMax,
      show max c.adcMin (min raw c.adcMax) ≤ c.adcMax by omega]

theorem ofInt7_toNat (v : Int) (h0 : 0 ≤ v) (h1 : v < 128) : ((BitVec.ofInt 7 v).toNat : Int) = v := by
  rw [BitVec.toNat_ofInt]
  have : (2 ^ 7 : Nat) = (128 : Int) := by norm_num
  omega

/-- The blended value in integers, for a mapped reading that is a percentage (R243). -/
theorem battBlend_toNat (c : Config) (stored : Battery) (pct : Int) (h0 : 0 ≤ pct) (h1 : pct ≤ 100) :
    ((battBlend c stored pct).toNat : Int) =
      if stored.toNat = 127 then pct
      else max 0 (min ((stored.toNat : Int) + (pct - stored.toNat).tdiv c.emaDiv) 100) := by
  unfold battBlend
  have : stored = battUnknown ↔ stored.toNat = 127 := by rw [← BitVec.toNat_inj]; rfl
  simp only [this]
  split
  · rw [ofInt7_toNat] <;> omega
  · rw [clamp_eq _ _ _ (by omega), ofInt7_toNat] <;> omega

/-- A difference divided by a positive number, rounded toward zero, lies between 0 and the difference (00_scope.md R40). -/
theorem tdiv_between (d : Int) (n : Nat) (h : 1 ≤ n) : min d 0 ≤ d.tdiv n ∧ d.tdiv n ≤ max d 0 := by
  rcases Int.le_total 0 d with hd | hd
  · rw [Int.tdiv_eq_ediv_of_nonneg hd]
    have := Int.ediv_nonneg hd (show (0 : Int) ≤ n by omega)
    have := Int.ediv_le_self (n : Int) hd
    omega
  · have e : d.tdiv n = -((-d) / n) := by
      rw [← Int.tdiv_eq_ediv_of_nonneg (by omega), Int.neg_tdiv, neg_neg]
    have := Int.ediv_nonneg (show 0 ≤ -d by omega) (show (0 : Int) ≤ n by omega)
    have := Int.ediv_le_self (n : Int) (show 0 ≤ -d by omega)
    omega

end Sys2Proof.Machine
end

