-- ==== Sys2Proof/Laws/Mailbox.lean ====
section
/-! SUPPORT. One mailbox (43_mailbox_state.md) in numbers: the gap (R271), the bounce (R284), the class's alarm (R281 to R283), the
two deadlines' tests (R290, R294), and the whole health check (R294) as one record. -/

namespace Sys2Proof.Machine

/-- The gap in natural numbers (R270, R271). -/
theorem lost_eq (m : Slot) (f : Fields) :
    m.lost f = if f.boot then 0
      else (f.seq.toNat + 65536 - (if m.seq.toNat = 65535 then 2 else m.seq.toNat + 1)) % 65536 := by
  have := f.seq.isLt
  have := (seqAfter m.seq).isLt
  simp only [Slot.lost, BitVec.toNat_sub]
  rw [← seqAfter_toNat]
  split
  · rfl
  · omega

theorem isBounce_eq (cfg : Config) (f : Fields) :
    isBounce cfg f = (!f.boot && !f.door && decide (f.uptime.toNat < cfg.bounceMs)) := by
  cases hb : f.boot <;> cases hd : f.door <;> simp [isBounce, frameClass, hb, hd]

/-- The alarm transition by the frame's two class bits (R281 to R283). -/
theorem alarmAfterFrame_eq (a : Severity) (boot door : Bool) :
    alarmAfterFrame a (frameClass boot door) =
      (if boot then .booted
       else if door then (if a = .doorOpenNow then .doorLeftOpen else .doorOpenNow) else .doorFlipped) := by
  cases boot <;> cases door <;> rfl

theorem pendingDue_iff (cfg : Config) (now : Time) (m : Slot) :
    m.pendingDue cfg now = true ↔
      (m.pendArmed = true ∧ cfg.pendingTimeoutMs ≤ (now.toNat + 2 ^ 32 - m.pendT0.toNat) % 2 ^ 32) := by
  simp only [Slot.pendingDue, Bool.and_eq_true, durationExpired, elapsed_eq, decide_eq_true_eq]

theorem absentNow_iff (cfg : Config) (wall : Wall) (m : Slot) :
    m.absentNow cfg wall = true ↔
      ∃ w l, wall = some w ∧ m.lastSeen = some l ∧ l ≤ w ∧ cfg.absenceWindowS < w - l := by
  unfold Slot.absentNow
  rcases wall with _ | w
  · simp
  · rcases hl : m.lastSeen with _ | l 
    · simp
    · simp only [Bool.and_eq_true, decide_eq_true_eq, Option.some.injEq]
      exact ⟨fun h => ⟨w, l, rfl, rfl, h⟩, fun ⟨_, _, h1, h2, h⟩ => by subst h1; subst h2; exact h⟩

theorem lowNow_iff (cfg : Config) (m : Slot) : m.lowNow cfg = true ↔ m.battery.toNat ≤ cfg.battLowPct := by
  simp [Slot.lowNow]

theorem below_absent (a : Severity) : a.below .absent = decide (a.code < 3) := rfl

theorem below_lowBattery (a : Severity) : a.below .lowBattery = decide (a.code < 2) := rfl

/-- Step 2 of the health check as one record (R294, R297, R298). -/
theorem healthLow_eq (cfg : Config) (i : MailboxId) (m : Slot) :
    m.healthLow cfg i =
      ({ m with
         alarm := if m.lowNow cfg = true ∧ m.alarm.code < 2 then .lowBattery else m.alarm
         battReported := m.battReported || m.lowNow cfg },
       if m.lowNow cfg = true ∧ m.battReported = false then [.notifyLowBattery i] else []) := by
  unfold Slot.healthLow Severity.raisedTo
  rw [below_lowBattery]
  rcases Bool.eq_false_or_eq_true (m.lowNow cfg) with h | h
  · by_cases h2 : m.alarm.code < 2 <;> cases hb : m.battReported <;> simp [h, h2]
  · simp only [h, Bool.false_eq_true, if_false, false_and, Bool.or_false]

/-- The whole health check (R294): the slot after it, its events, and its answer. -/
theorem health_eq (cfg : Config) (wall : Wall) (i : MailboxId) (m : Slot) :
    m.health cfg wall i =
      ({ m with
         alarm := if m.absentNow cfg wall = true ∧ m.alarm.code < 3 then .absent
           else if m.lowNow cfg = true ∧ m.alarm.code < 2 then .lowBattery else m.alarm
         battReported := m.battReported || m.lowNow cfg },
       (if m.absentNow cfg wall = true ∧ m.alarm.code < 3 then [.notifyAbsent i] else []) ++
         (if m.lowNow cfg = true ∧ m.battReported = false then [.notifyLowBattery i] else []),
       !(m.absentNow cfg wall || m.lowNow cfg)) := by
  unfold Slot.health Slot.healthAbsent
  rw [below_absent]
  simp only [healthLow_eq, Bool.and_eq_true, decide_eq_true_eq]
  by_cases h : m.absentNow cfg wall = true ∧ m.alarm.code < 3
  · simp only [if_pos h]
    have e (a : Severity) : ({ m with alarm := a } : Slot).lowNow cfg = m.lowNow cfg := rfl
    simp only [e, Severity.code]
    simp
  · simp only [if_neg h]

/-- An operation on a slot that is not valid (or on id 0) is refused (43_mailbox_state.md R260). -/
theorem onSlot_none {s : State} {i : MailboxId} {k : Slot → Answer} (h : s.rx.slot? i = none) :
    s.onSlot i k = .refused (.slotNotRegistered i) := by
  simp only [State.onSlot, h]

/-- An `MB_*` operation that answers found its slot valid (R260). -/
theorem onSlot_next {s t : State} {i : MailboxId} {k : Slot → Answer} (h : s.onSlot i k = .next t) :
    ∃ m, s.rx.slot? i = some m ∧ k m = .next t := by
  unfold State.onSlot at h
  split at h
  · cases h
  · rename_i m hm; exact ⟨m, hm, h⟩

/-- Applying a frame writes slots and events only (R262). -/
theorem applyFrame_frame (cfg : Config) (f : Fields) (now : Time) (wall : Wall) (fails : Bool) (m : Slot) (r : Receiver) :
    r.applyFrame cfg f now wall fails m =
      { r with
        slots := (r.applyFrame cfg f now wall fails m).slots
        events := (r.applyFrame cfg f now wall fails m).events } := by
  rw [Receiver.applyFrame_events]
  exact applyFrame_eq rfl cfg f now wall fails m

/-- Recomputing the global alarm before an application is lost in the recomputation after it. -/
theorem recompute_applyFrame_recompute (cfg : Config) (f : Fields) (now : Time) (wall : Wall) (fails : Bool) (m : Slot)
    (r : Receiver) :
    (r.recompute.applyFrame cfg f now wall fails m).recompute = (r.applyFrame cfg f now wall fails m).recompute := by
  unfold Receiver.applyFrame Receiver.setSlot
  split <;> rfl

/-- Creating a slot writes slots and the free-value counter only. -/
theorem createSlot_frame (r : Receiver) (i : MailboxId) (m : Slot) :
    r.createSlot i m = { r with slots := (r.setSlot i (some m)).slots, draws := r.draws + 1 } := by
  unfold Receiver.createSlot; rw [setSlot_frame r]

/-- Writing one slot and appending events writes slots and events only. -/
theorem setSlot_emitAll_frame (r : Receiver) (i : MailboxId) (m : Option Slot) (es : List Event) :
    (r.setSlot i m).emitAll es =
      { r with slots := (r.setSlot i m).slots, events := r.events ++ es } := by
  rw [setSlot_frame r]; rfl

end Sys2Proof.Machine
end

