-- ==== Sys2Proof/Laws/PerInstr.lean ====
section
/-! SUPPORT. For each operation: the word its encoding presents is a word of its own row of spec/opcode_table.json, by that row's
mask and match (30_encoding.md R144, R147, R151). -/

namespace Sys2Proof.Laws

/-- A row's word as a number, its first byte most significant (00_scope.md R39). -/
def wordOf : List Byte → BitVec 64 := List.foldl (fun w b => w <<< 8 ||| b.setWidth 64) 0#64

/-- One row of the table: how many bytes its words have, and the mask and match that pick them out. -/
structure Row where
  bytes : Nat
  mask : BitVec 64
  pattern : BitVec 64

/-- The row of a command code. -/
def commandRow (code : Byte) : Row := ⟨1, 0xFF#64, code.setWidth 64⟩

/-- The row of an operation, as the table gives it. -/
def rowOf : Instr → Row
  | .codecEncode _ => commandRow 0x01
  | .codecDecode _ => commandRow 0x02
  | .checksum _ => commandRow 0x03
  | .checksumOk _ => commandRow 0x04
  | .versionOk _ => commandRow 0x05
  | .nextSeq _ => commandRow 0x06
  | .getf _ _ => commandRow 0x07
  | .setf _ _ => commandRow 0x08
  | .rxByte _ _ => commandRow 0x10
  | .rxTick _ => commandRow 0x11
  | .rxService _ _ => commandRow 0x12
  | .msgAvail => commandRow 0x13
  | .takeMsg _ => commandRow 0x14
  | .rxArm => commandRow 0x15
  | .txSend _ _ _ => commandRow 0x20
  | .txSleep _ => commandRow 0x21
  | .txWakeup _ => commandRow 0x22
  | .battSample _ => commandRow 0x23
  | .retSave => commandRow 0x24
  | .mbApply _ _ _ _ => commandRow 0x30
  | .mbPendFire _ _ => commandRow 0x31
  | .mbHealth _ _ => commandRow 0x32
  | .mbAck _ => commandRow 0x33
  | .mbReliability _ => commandRow 0x34
  | .regLookupOrCreate _ _ => commandRow 0x40
  | .regDelete _ _ => commandRow 0x41
  | .regDispatch _ _ => commandRow 0x42
  | .regRecompute => commandRow 0x43
  | .regAck _ _ => commandRow 0x44
  | .regRollcall _ => commandRow 0x45
  | .regTimers _ => commandRow 0x46
  | .regEnum => commandRow 0x47
  | .regLoad _ => commandRow 0x48
  | .frmBoot _ _ _ => ⟨8, 0x0008000000000000#64, 0x0008000000000000#64⟩
  | .frmOpen _ _ => ⟨8, 0x000A000000000000#64, 0x0002000000000000#64⟩
  | .frmClosed _ _ => ⟨8, 0x000A000000000000#64, 0x0000000000000000#64⟩

/-- The encoding of `i` is a word of `i`'s row. -/
def RowMatch.Statement (i : Instr) : Prop :=
  (encode i).word.length = (rowOf i).bytes ∧ wordOf (encode i).word &&& (rowOf i).mask = (rowOf i).pattern

theorem wordOf_command (code : Byte) : wordOf [code] &&& 0xFF#64 = code.setWidth 64 := by
  revert code; decide

theorem wordOf_two_bits (F : Frame) : (wordOf F.toList).getLsbD 51 = F.bits.boot ∧ (wordOf F.toList).getLsbD 49 = F.bits.door := by
  have h : F.toList = [F[0], F[1], F[2], F[3], F[4], F[5], F[6], F[7]] := frame_toList F
  rw [h]
  constructor <;> simp [wordOf, Frame.bits]

theorem mask_boot (w : BitVec 64) :
    w &&& 0x0008000000000000#64 = if w.getLsbD 51 then 0x0008000000000000#64 else 0#64 := by
  rw [show (0x0008000000000000#64) = BitVec.twoPow 64 51 by decide, BitVec.and_twoPow]

theorem mask_boot_door (w : BitVec 64) :
    w &&& 0x000A000000000000#64 =
      (if w.getLsbD 51 then 0x0008000000000000#64 else 0#64) ||| (if w.getLsbD 49 then 0x0002000000000000#64 else 0#64) := by
  rw [show (0x000A000000000000#64) = BitVec.twoPow 64 51 ||| BitVec.twoPow 64 49 by decide, BitVec.and_or_distrib_left,
    BitVec.and_twoPow, BitVec.and_twoPow]
  rfl

theorem RowMatch.codecEncode (f : Fields) : RowMatch.Statement (.codecEncode f) :=
  ⟨rfl, wordOf_command _⟩

theorem RowMatch.codecDecode (F : Frame) : RowMatch.Statement (.codecDecode F) :=
  ⟨rfl, wordOf_command _⟩

theorem RowMatch.checksum (F : Frame) : RowMatch.Statement (.checksum F) :=
  ⟨rfl, wordOf_command _⟩

theorem RowMatch.checksumOk (F : Frame) : RowMatch.Statement (.checksumOk F) :=
  ⟨rfl, wordOf_command _⟩

theorem RowMatch.versionOk (F : Frame) : RowMatch.Statement (.versionOk F) :=
  ⟨rfl, wordOf_command _⟩

theorem RowMatch.nextSeq (c : SeqNo) : RowMatch.Statement (.nextSeq c) :=
  ⟨rfl, wordOf_command _⟩

theorem RowMatch.getf (F : Frame) (name : FieldName) : RowMatch.Statement (.getf F name) :=
  ⟨rfl, wordOf_command _⟩

theorem RowMatch.setf (F : Frame) (v : FieldValue) : RowMatch.Statement (.setf F v) :=
  ⟨rfl, wordOf_command _⟩

theorem RowMatch.rxByte (b : Byte) (now : Time) : RowMatch.Statement (.rxByte b now) :=
  ⟨rfl, wordOf_command _⟩

theorem RowMatch.rxTick (now : Time) : RowMatch.Statement (.rxTick now) :=
  ⟨rfl, wordOf_command _⟩

theorem RowMatch.rxService (bytes : List Byte) (now : Time) : RowMatch.Statement (.rxService bytes now) :=
  ⟨rfl, wordOf_command _⟩

theorem RowMatch.msgAvail : RowMatch.Statement .msgAvail :=
  ⟨rfl, wordOf_command _⟩

theorem RowMatch.takeMsg (rearm : Bool) : RowMatch.Statement (.takeMsg rearm) :=
  ⟨rfl, wordOf_command _⟩

theorem RowMatch.rxArm : RowMatch.Statement .rxArm :=
  ⟨rfl, wordOf_command _⟩

theorem RowMatch.txSend (online door : Bool) (now : Time) : RowMatch.Statement (.txSend online door now) :=
  ⟨rfl, wordOf_command _⟩

theorem RowMatch.txSleep (now : Time) : RowMatch.Statement (.txSleep now) :=
  ⟨rfl, wordOf_command _⟩

theorem RowMatch.txWakeup (now : Time) : RowMatch.Statement (.txWakeup now) :=
  ⟨rfl, wordOf_command _⟩

theorem RowMatch.battSample (raw : Int) : RowMatch.Statement (.battSample raw) :=
  ⟨rfl, wordOf_command _⟩

theorem RowMatch.retSave : RowMatch.Statement .retSave :=
  ⟨rfl, wordOf_command _⟩

theorem RowMatch.mbApply (f : Fields) (now : Time) (wall : Wall) (fails : Bool) : RowMatch.Statement (.mbApply f now wall fails) :=
  ⟨rfl, wordOf_command _⟩

theorem RowMatch.mbPendFire (i : MailboxId) (now : Time) : RowMatch.Statement (.mbPendFire i now) :=
  ⟨rfl, wordOf_command _⟩

theorem RowMatch.mbHealth (i : MailboxId) (wall : Wall) : RowMatch.Statement (.mbHealth i wall) :=
  ⟨rfl, wordOf_command _⟩

theorem RowMatch.mbAck (i : MailboxId) : RowMatch.Statement (.mbAck i) :=
  ⟨rfl, wordOf_command _⟩

theorem RowMatch.mbReliability (i : MailboxId) : RowMatch.Statement (.mbReliability i) :=
  ⟨rfl, wordOf_command _⟩

theorem RowMatch.regLookupOrCreate (id : MailboxId) (fails : Bool) : RowMatch.Statement (.regLookupOrCreate id fails) :=
  ⟨rfl, wordOf_command _⟩

theorem RowMatch.regDelete (id : MailboxId) (fails : Bool) : RowMatch.Statement (.regDelete id fails) :=
  ⟨rfl, wordOf_command _⟩

theorem RowMatch.regDispatch (f : Fields) (env : DispatchEnv) : RowMatch.Statement (.regDispatch f env) :=
  ⟨rfl, wordOf_command _⟩

theorem RowMatch.regRecompute : RowMatch.Statement .regRecompute :=
  ⟨rfl, wordOf_command _⟩

theorem RowMatch.regAck (actor : List Byte) (target : AckTarget) : RowMatch.Statement (.regAck actor target) :=
  ⟨rfl, wordOf_command _⟩

theorem RowMatch.regRollcall (wall : Wall) : RowMatch.Statement (.regRollcall wall) :=
  ⟨rfl, wordOf_command _⟩

theorem RowMatch.regTimers (now : Time) : RowMatch.Statement (.regTimers now) :=
  ⟨rfl, wordOf_command _⟩

theorem RowMatch.regEnum : RowMatch.Statement .regEnum :=
  ⟨rfl, wordOf_command _⟩

theorem RowMatch.regLoad (probe : Vector ProbeAnswer 15) : RowMatch.Statement (.regLoad probe) :=
  ⟨rfl, wordOf_command _⟩

theorem RowMatch.frmBoot (o : FrameOperands) (door : Bool) (env : DispatchEnv) : RowMatch.Statement (.frmBoot o door env) := by
  have h := wordOf_two_bits (o.bits true door).toFrame
  rw [bits_toFrame] at h
  refine ⟨rfl, (mask_boot _).trans ?_⟩
  rw [show (encode (.frmBoot o door env)).word = (o.bits true door).toFrame.toList from rfl, h.1]; rfl

theorem RowMatch.frmOpen (o : FrameOperands) (env : DispatchEnv) : RowMatch.Statement (.frmOpen o env) := by
  have h := wordOf_two_bits (o.bits false true).toFrame
  rw [bits_toFrame] at h
  refine ⟨rfl, (mask_boot_door _).trans ?_⟩
  rw [show (encode (.frmOpen o env)).word = (o.bits false true).toFrame.toList from rfl, h.1, h.2]
  simp [FrameOperands.bits, rowOf]

theorem RowMatch.frmClosed (o : FrameOperands) (env : DispatchEnv) : RowMatch.Statement (.frmClosed o env) := by
  have h := wordOf_two_bits (o.bits false false).toFrame
  rw [bits_toFrame] at h
  refine ⟨rfl, (mask_boot_door _).trans ?_⟩
  rw [show (encode (.frmClosed o env)).word = (o.bits false false).toFrame.toList from rfl, h.1, h.2]
  simp [FrameOperands.bits, rowOf]

end Sys2Proof.Laws
end

