-- ==== Sys2Proof/Laws/Step.lean ====
section
/-! SUPPORT. What one operation can do, said once: which record of the state it writes, how it moves the receiver's registers, and
how it moves each mailbox. Later proofs take these cases apart instead of unfolding an operation. -/

namespace Sys2Proof.Machine

/-! ### The slots -/

/-- The ways operation `i` can change a registered mailbox `j`'s slot (43_mailbox_state.md R260, R304): a frame, a firing, a health
check, an acknowledgement, each with the stimulus it takes. -/
inductive SlotStep (cfg : Config) (i : Instr) (j : MailboxId) (m : Slot) : Slot → Prop
  | same : SlotStep cfg i j m m
  | frame (f : Fields) (now : Time) (wall : Wall) (via : stimulus i = some (.frame j f.boot f.door)) :
      SlotStep cfg i j m (m.afterFrame cfg f now wall)
  | fire (now : Time) (k : MailboxId) (target : AckTarget) (via : stimulus i = some (.timer target)) (on : targets target j) :
      SlotStep cfg i j m (m.pendFire cfg now k).1
  | health (wall : Wall) (k : MailboxId) (target : AckTarget) (via : stimulus i = some (.health target))
      (on : targets target j) : SlotStep cfg i j m (m.health cfg wall k).1
  | ack (target : AckTarget) (via : stimulus i = some (.ack target)) (on : targets target j) : SlotStep cfg i j m m.acked

/-- The ways a slot can come to hold a mailbox (10_state.md R94, 44_registry.md R312, R324): created, with the frame that created
it perhaps applied, or loaded from a record whose label fits. -/
inductive SlotBirth (cfg : Config) : Slot → Prop
  | created (d : Nat) : SlotBirth cfg (Slot.fresh (Config.freePendT0 d))
  | framed (d : Nat) (f : Fields) (now : Time) (wall : Wall) :
      SlotBirth cfg ((Slot.fresh (Config.freePendT0 d)).afterFrame cfg f now wall)
  | loaded (d : Nat) (label : Label) (lastSeen : Wall) (battery : Battery) (fits : label.length ≤ cfg.labelMax) :
      SlotBirth cfg ((Slot.fresh (Config.freePendT0 d)).loaded label lastSeen battery)

/-- What operation `i` does to the slot file, id by id. -/
def SlotsStep (cfg : Config) (i : Instr) (r r' : Receiver) : Prop :=
  ∀ j m', r'.slot? j = some m' →
    (∃ m, r.slot? j = some m ∧ SlotStep cfg i j m m') ∨ (r.slot? j = none ∧ SlotBirth cfg m')

theorem SlotsStep.refl (cfg : Config) (i : Instr) {r r' : Receiver} (h : ∀ j, r'.slot? j = r.slot? j) :
    SlotsStep cfg i r r' :=
  fun j m' hm => .inl ⟨m', by rw [← h j]; exact hm, .same⟩

/-- Writing one valid slot with a change of it. -/
theorem SlotsStep.one {cfg : Config} {i : Instr} {r r' : Receiver} {k : MailboxId} {m m' : Slot} (hm : r.slot? k = some m)
    (h : ∀ j, r'.slot? j = (r.setSlot k (some m')).slot? j) (hs : SlotStep cfg i k m m') : SlotsStep cfg i r r' := by
  intro j x hx
  rw [h j, slot?_setSlot] at hx
  split at hx
  · rename_i e; cases hx; rw [e.1]; exact .inl ⟨m, hm, hs⟩
  · exact .inl ⟨x, hx, .same⟩

/-- Making one slot valid. -/
theorem SlotsStep.birth {cfg : Config} {i : Instr} {r r' : Receiver} {k : MailboxId} {m' : Slot} (hm : r.slot? k = none)
    (h : ∀ j, r'.slot? j = (r.setSlot k (some m')).slot? j) (hs : SlotBirth cfg m') : SlotsStep cfg i r r' := by
  intro j x hx
  rw [h j, slot?_setSlot] at hx
  split at hx
  · rename_i e; cases hx; exact .inr ⟨by rw [e.1]; exact hm, hs⟩
  · exact .inl ⟨x, hx, .same⟩

/-- A sweep whose visits are changes. -/
theorem SlotsStep.sweep {β : Type} {cfg : Config} {i : Instr} {r r' : Receiver}
    (f : MailboxId → Slot → Slot × List Event × β)
    (h : ∀ j, r'.slot? j = (r.sweep f allIds).1.slot? j) (hs : ∀ j m, SlotStep cfg i j m (f j m).1) :
    SlotsStep cfg i r r' := by
  intro j x hx
  rw [h j, sweep_all_slot?, Option.map_eq_some_iff] at hx
  obtain ⟨m, hm, rfl⟩ := hx
  exact .inl ⟨m, hm, hs j m⟩

/-- What a dispatch does to the slots. -/
theorem dispatch_slotsStep {cfg : Config} {i : Instr} {f : Fields} (hi : stimulus i = some (.frame f.id f.boot f.door))
    (env : DispatchEnv) (r : Receiver) : SlotsStep cfg i r (r.dispatch cfg f env).1 := by
  unfold Receiver.dispatch
  split
  · exact .refl cfg i fun _ => rfl
  · rename_i h0
    split
    · rename_i m hm; exact .one hm (fun _ => rfl) (.frame f env.now env.wall hi)
    · rename_i hm
      refine .birth (m' := r.freshSlot.afterFrame cfg f env.now env.wall) hm (fun j => ?_) (.framed _ f _ _)
      simp only [slot?_recompute, slot?_applyFrame, slot?_setSlot, slot?_register]
      by_cases hj : j = f.id ∧ f.id ≠ 0#4
      · simp only [if_pos hj]
      · simp only [if_neg hj]

/-- What a load does to the slots. -/
theorem loadAll_slotsStep (cfg : Config) (i : Instr) (l : List (MailboxId × ProbeAnswer)) (r : Receiver) :
    SlotsStep cfg i r (r.loadAll cfg.labelMax l).1 := by
  intro j m' hm
  rcases loadAll_slot?_cases _ _ _ hm with h | ⟨h0, lab, w, b, d, _, hlen, rfl⟩
  · exact .inl ⟨m', h, .same⟩
  · exact .inr ⟨h0, .loaded d lab w b hlen⟩

/-! ### The receiver's registers -/

/-- The operations that move the receiver's registers, and how (41_receiver.md R203 to R213). -/
inductive LinkStep (cfg : Config) (r : Receiver) : Instr → Receiver → Prop
  | byte (b : Byte) (now : Time) (armed : r.rxArmed = true) : LinkStep cfg r (.rxByte b now) (r.takeByte cfg b now)
  | tick (now : Time) : LinkStep cfg r (.rxTick now) (r.tick cfg now).1
  | service (bytes : List Byte) (now : Time) :
      LinkStep cfg r (.rxService bytes now) ((r.feed cfg now bytes).1.tick cfg now).1
  | take (rearm : Bool) (valid : r.rxMsgValid = true) :
      LinkStep cfg r (.takeMsg rearm) { r with rxMsgValid := false, rxArmed := r.rxArmed || rearm }
  | arm (free : r.rxMsgValid = false) : LinkStep cfg r .rxArm { r with rxArmed := true }

/-- An operation that leaves the receiver's registers alone and moves the slot file as `SlotsStep` says. -/
structure RegistryStep (cfg : Config) (i : Instr) (r r' : Receiver) : Prop where
  registers : r' = { r with
    slots := r'.slots, events := r'.events, globalAlarm := r'.globalAlarm, draws := r'.draws }
  slots : SlotsStep cfg i r r'

theorem RegistryStep.refl (cfg : Config) (i : Instr) (r : Receiver) : RegistryStep cfg i r r :=
  ⟨rfl, .refl cfg i fun _ => rfl⟩

theorem dispatch_registryStep {cfg : Config} {i : Instr} {f : Fields} (hi : stimulus i = some (.frame f.id f.boot f.door))
    (env : DispatchEnv) (r : Receiver) : RegistryStep cfg i r (r.dispatch cfg f env).1 := by
  refine ⟨?_, dispatch_slotsStep hi env r⟩
  obtain ⟨new, g, h⟩ := dispatch_local cfg f env r
  rw [h r rfl rfl]

theorem frameArrives_registryStep {i : Instr} {b : FrameBits} {env : DispatchEnv} {s t : State}
    (hi : stimulus i = some (.frame b.id b.boot b.door)) (h : s.frameArrives b.toFrame env = .next t) :
    RegistryStep s.cfg i s.rx t.rx := by
  unfold State.frameArrives at h
  split at h
  · cases h; exact ⟨rfl, .refl _ _ fun _ => rfl⟩
  · cases h
    exact dispatch_registryStep (by simp only [Frame.fields, bits_toFrame]; exact hi) _ _

/-- What an operation that answers does to the receiver: it moves its registers, or its slot file, or neither. -/
theorem exec_receiver {i : Instr} {s t : State} (h : exec i s = .next t) :
    LinkStep s.cfg s.rx i t.rx ∨ RegistryStep s.cfg i s.rx t.rx := by
  cases i with
  | rxByte b now =>
    simp only [exec, execRxByte] at h
    split at h
    · rename_i ha; cases h; exact .inl (.byte b now ha)
    · cases h; exact .inr (.refl _ _ _)
  | rxTick now => cases h; exact .inl (.tick now)
  | rxService bytes now => cases h; exact .inl (.service bytes now)
  | takeMsg rearm =>
    simp only [exec, execTakeMsg] at h
    split at h
    · rename_i hv; cases h; exact .inl (.take rearm hv)
    · cases h; exact .inr (.refl _ _ _)
  | rxArm =>
    simp only [exec, execRxArm] at h
    split at h
    · cases h; exact .inr (.refl _ _ _)
    · rename_i hv; cases h; exact .inl (.arm (by simpa using hv))
  | txSend online door now =>
    right
    simp only [exec, execTxSend, State.unlessSettling] at h
    split at h
    · cases h; exact .refl _ _ _
    · split at h
      · cases h; exact .refl _ _ _
      · cases h
  | txSleep now =>
    right
    simp only [exec, execTxSleep, State.unlessSettling] at h
    split at h <;> (cases h; exact .refl _ _ _)
  | txWakeup now =>
    right
    simp only [exec, execTxWakeup, State.unlessSettling] at h
    split at h <;> (cases h; exact .refl _ _ _)
  | battSample raw =>
    right
    simp only [exec, execBattSample] at h
    split at h <;> (cases h; exact .refl _ _ _)
  | mbApply f now wall fails =>
    right
    obtain ⟨m, hm, hk⟩ := onSlot_next h
    cases hk
    exact ⟨by rw [applyFrame_frame], .one hm (fun _ => rfl) (.frame f now wall rfl)⟩
  | mbPendFire i now =>
    right
    obtain ⟨m, hm, hk⟩ := onSlot_next h
    cases hk
    exact ⟨by rw [setSlot_emitAll_frame], .one hm (fun _ => rfl) (.fire now i (.one i) rfl (.inr rfl))⟩
  | mbHealth i wall =>
    right
    obtain ⟨m, hm, hk⟩ := onSlot_next h
    cases hk
    exact ⟨by rw [setSlot_emitAll_frame], .one hm (fun _ => rfl) (.health wall i (.one i) rfl (.inr rfl))⟩
  | mbAck i =>
    right
    obtain ⟨m, hm, hk⟩ := onSlot_next h
    cases hk
    exact ⟨by rw [setSlot_frame], .one hm (fun _ => rfl) (.ack (.one i) rfl (.inr rfl))⟩
  | mbReliability i =>
    right
    obtain ⟨m, hm, hk⟩ := onSlot_next h
    cases hk
    exact .refl _ _ _
  | regLookupOrCreate id fails =>
    right
    simp only [exec, execRegLookupOrCreate] at h
    split at h
    · cases h; exact ⟨rfl, .refl _ _ fun _ => rfl⟩
    · split at h
      · cases h; exact .refl _ _ _
      · rename_i hm
        cases h
        exact ⟨by rw [register_eq rfl rfl]; rfl, .birth hm (fun _ => rfl) (.created _)⟩
  | regDelete id fails =>
    right
    simp only [exec, execRegDelete] at h
    split at h
    · cases h; exact .refl _ _ _
    · cases h
      refine ⟨by simp only [Receiver.recompute, Receiver.persist]; rw [setSlot_emitAll_frame], ?_⟩
      intro j m' hm
      rw [slot?_recompute, slot?_persist, slot?_setSlot] at hm
      split at hm
      · cases hm
      · exact .inl ⟨m', hm, .same⟩
  | regDispatch f env => cases h; exact .inr (dispatch_registryStep rfl _ _)
  | regRecompute => cases h; exact .inr ⟨rfl, .refl _ _ fun _ => rfl⟩
  | regAck actor target =>
    right
    cases target with
    | all =>
      cases h
      exact ⟨by simp only [Receiver.recompute]; rw [sweep_frame],
        .sweep _ (fun _ => rfl) (fun _ _ => .ack .all rfl (.inl rfl))⟩
    | one i =>
      simp only [exec, execRegAck] at h
      split at h
      · cases h; exact .refl _ _ _
      · rename_i m hm
        cases h
        exact ⟨by simp only [Receiver.recompute]; rw [setSlot_frame], .one hm (fun _ => rfl) (.ack (.one i) rfl (.inr rfl))⟩
  | regRollcall wall =>
    cases h
    exact .inr ⟨by simp only [Receiver.recompute]; rw [sweep_frame],
      .sweep _ (fun _ => rfl) (fun i _ => .health wall i .all rfl (.inl rfl))⟩
  | regTimers now =>
    cases h
    exact .inr ⟨by simp only [Receiver.recompute]; rw [sweep_frame],
      .sweep _ (fun _ => rfl) (fun i _ => .fire now i .all rfl (.inl rfl))⟩
  | regLoad probe =>
    cases h
    refine .inr ⟨by simp only [Receiver.recompute]; rw [loadAll_frame], ?_⟩
    intro j m' hm
    exact loadAll_slotsStep s.cfg _ (allIds.zip probe.toList) s.rx j m' hm
  | frmBoot o door env => exact .inr (frameArrives_registryStep rfl h)
  | frmOpen o env => exact .inr (frameArrives_registryStep rfl h)
  | frmClosed o env => exact .inr (frameArrives_registryStep rfl h)
  | codecEncode f => cases h; exact .inr (.refl _ _ _)
  | codecDecode F => cases h; exact .inr (.refl _ _ _)
  | checksum F => cases h; exact .inr (.refl _ _ _)
  | checksumOk F => cases h; exact .inr (.refl _ _ _)
  | versionOk F => cases h; exact .inr (.refl _ _ _)
  | nextSeq c => cases h; exact .inr (.refl _ _ _)
  | getf F n => cases h; exact .inr (.refl _ _ _)
  | setf F v => cases h; exact .inr (.refl _ _ _)
  | msgAvail => cases h; exact .inr (.refl _ _ _)
  | retSave => cases h; exact .inr (.refl _ _ _)
  | regEnum => cases h; exact .inr (.refl _ _ _)

/-- Moving the receiver's registers touches no mailbox. -/
theorem linkStep_registry {cfg : Config} {i : Instr} {r r' : Receiver} (h : LinkStep cfg r i r') :
    r'.slots = r.slots ∧ r'.globalAlarm = r.globalAlarm ∧ r'.draws = r.draws := by
  cases h with
  | byte b now _ => exact takeByte_registry _ _ _ _
  | tick now => exact tick_registry _ _ _
  | service bytes now =>
    obtain ⟨h1, h2, h3, _⟩ := feed_registry cfg now bytes r
    obtain ⟨k1, k2, k3⟩ := tick_registry cfg now (r.feed cfg now bytes).1
    exact ⟨k1.trans h1, k2.trans h2, k3.trans h3⟩
  | take _ _ => exact ⟨rfl, rfl, rfl⟩
  | arm _ => exact ⟨rfl, rfl, rfl⟩

/-- What an operation that answers does to the slots. -/
theorem exec_slotsStep {i : Instr} {s t : State} (h : exec i s = .next t) : SlotsStep s.cfg i s.rx t.rx := by
  rcases exec_receiver h with h | h
  · exact .refl _ _ (slot?_congr (linkStep_registry h).1)
  · exact h.slots

/-! ### The record an operation writes -/

/-- An operation that answers changes neither the configuration nor the environment's inputs (10_state.md R50, R79). -/
theorem exec_frame {i : Instr} {s t : State} (h : exec i s = .next t) :
    t = { s with rx := t.rx, tx := t.tx, result := t.result } := by
  have hf : ∀ {F : Frame} {env : DispatchEnv}, s.frameArrives F env = .next t →
      t = { s with rx := t.rx, tx := t.tx, result := t.result } := by
    intro F env h
    unfold State.frameArrives at h
    split at h <;> (cases h; rfl)
  have ho : ∀ {i : MailboxId} {k : Slot → Answer}, s.onSlot i k = .next t →
      (∀ m, k m = .next t → t = { s with rx := t.rx, tx := t.tx, result := t.result }) →
      t = { s with rx := t.rx, tx := t.tx, result := t.result } := by
    intro i k h hk
    obtain ⟨m, _, hm⟩ := onSlot_next h
    exact hk m hm
  cases i with
  | rxByte b now => simp only [exec, execRxByte] at h; split at h <;> (cases h; rfl)
  | takeMsg rearm => simp only [exec, execTakeMsg] at h; split at h <;> (cases h; rfl)
  | rxArm => simp only [exec, execRxArm] at h; split at h <;> (cases h; rfl)
  | txSend online door now =>
    simp only [exec, execTxSend, State.unlessSettling] at h
    split at h
    · cases h; rfl
    · split at h
      · cases h; rfl
      · cases h
  | txSleep now => simp only [exec, execTxSleep, State.unlessSettling] at h; split at h <;> (cases h; rfl)
  | txWakeup now => simp only [exec, execTxWakeup, State.unlessSettling] at h; split at h <;> (cases h; rfl)
  | battSample raw => simp only [exec, execBattSample] at h; split at h <;> (cases h; rfl)
  | mbApply f now wall fails => exact ho h fun m hk => by cases hk; rfl
  | mbPendFire i now => exact ho h fun m hk => by cases hk; rfl
  | mbHealth i wall => exact ho h fun m hk => by cases hk; rfl
  | mbAck i => exact ho h fun m hk => by cases hk; rfl
  | mbReliability i => exact ho h fun m hk => by cases hk; rfl
  | regLookupOrCreate id fails =>
    simp only [exec, execRegLookupOrCreate] at h
    split at h
    · cases h; rfl
    · split at h <;> (cases h; rfl)
  | regDelete id fails => simp only [exec, execRegDelete] at h; split at h <;> (cases h; rfl)
  | regAck actor target =>
    cases target with
    | all => cases h; rfl
    | one i => simp only [exec, execRegAck] at h; split at h <;> (cases h; rfl)
  | frmBoot o door env => exact hf h
  | frmOpen o env => exact hf h
  | frmClosed o env => exact hf h
  | _ => cases h; rfl

/-! ### A step -/

/-- What follows an operation when it is issued by itself: its next state, the global alarm recomputed after one that writes a slot
directly (43_mailbox_state.md R260). -/
theorem completed_next {i : Instr} {a : Answer} {t : State} (h : completed i a = .next t) :
    ∃ u, a = .next u ∧ (writesSlotDirectly i = false ∧ t = u ∨
      writesSlotDirectly i = true ∧ t = { u with rx := u.rx.recompute }) := by
  cases a with
  | next u =>
    simp only [completed] at h
    split at h
    · rename_i hw; cases h; exact ⟨_, rfl, .inr ⟨hw, rfl⟩⟩
    · rename_i hw; cases h; exact ⟨_, rfl, .inl ⟨by simpa using hw, rfl⟩⟩
  | fault r => cases h
  | refused r => cases h

/-- In a configuration that is one a step is taken (U22). -/
theorem unlessIllFormed_wf {s : State} (h : s.cfg.wf = true) (k : Answer) : s.unlessIllFormed k = k := if_pos h

/-- The cases of a step, all in a configuration that is one: the environment does nothing, a request is executed to its end, or
another input has its effect. -/
theorem step_cases {s t : State} (h : step s = .next t) :
    s.cfg.wf = true ∧
    ((s.pending = [] ∧ t = s) ∨
     (∃ r rest i, s.pending = .request r :: rest ∧ decode r = .ok i ∧
       completed i (exec i { s with pending := rest }) = .next t) ∨
     (∃ input rest, s.pending = input :: rest ∧ (∀ r, input ≠ .request r) ∧
       t = State.input { s with pending := rest } input)) := by
  unfold step State.unlessIllFormed at h
  split at h
  · rename_i hw
    refine ⟨hw, ?_⟩
    split at h
    · rename_i hp; cases h; exact .inl ⟨hp, rfl⟩
    · rename_i r rest hp
      split at h
      · rename_i i hd; exact .inr (.inl ⟨r, rest, i, hp, hd, h⟩)
      · cases h
    · rename_i input rest hne hp
      cases h
      exact .inr (.inr ⟨input, rest, hp, fun r e => hne r e, rfl⟩)
  · cases h

end Sys2Proof.Machine
end

