-- ==== Sys2Proof/Tests/Slice0.lean ====
section
/-! SUPPORT. Small tests: ill-formed terms are refused, written-out words decode, one or two vectors of 95_test_vectors.md for each
operation (V<n>, S-<n>), and a witness for the hypotheses of each statement of Obligations.lean (`wit_…`). Every expected value is
the spec's. -/

open Sys2Proof Sys2Proof.Machine

namespace Sys2Proof.Tests

/-! ### Helpers -/

/-- The state an operation gives; the state itself if it gives none. -/
def after (i : Instr) (s : State) : State :=
  match exec i s with
  | .next t => t
  | .fault _ | .refused _ => s

/-- The state a step gives; the state itself if it gives none. -/
def afterStep (s : State) : State :=
  match step s with
  | .next t => t
  | .fault _ | .refused _ => s

/-- Why a step is refused, if it is. -/
def stepRefusal (s : State) : Option Refusal :=
  match step s with
  | .refused r => some r
  | .next _ | .fault _ => none

/-- What an operation returns; `none` if it gives no next state. -/
def answer (i : Instr) (s : State) : Option Result :=
  match exec i s with
  | .next t => some t.result
  | .fault _ | .refused _ => none

/-- Why an operation is refused, if it is. -/
def refusal (i : Instr) (s : State) : Option Refusal :=
  match exec i s with
  | .refused r => some r
  | .next _ | .fault _ => none

/-- Frames of 95_test_vectors.md. -/
def v1 : Frame := #v[0x11, 0x36, 0x00, 0x05, 0x01, 0x2C, 0xA0, 0xAF]
def v3 : Frame := #v[0x11, 0x30, 0x00, 0x06, 0x10, 0x68, 0xA0, 0xFF]
def v6 : Frame := #v[0x11, 0x02, 0x00, 0x09, 0x00, 0x64, 0x6E, 0x10]
def v12 : Frame := #v[0x11, 0x38, 0x00, 0x01, 0x00, 0x78, 0x9A, 0xCA]

/-- The fields of V1, V3, V6, V12. -/
def f1 : Fields := ⟨1, 3, false, true, true, 5, 300, 80⟩
def f3 : Fields := ⟨1, 3, false, false, false, 6, 4200, 80⟩
def f6 : Fields := ⟨1, 0, false, false, true, 9, 100, 55⟩
def f12 : Fields := ⟨1, 3, true, false, false, 1, 120, 77⟩

/-- Slot 3 fresh (10_state.md R94), with some `pend_t0`; and as S-1 leaves it. -/
def fresh : Slot := Slot.fresh 77
def s1slot : Slot :=
  { fresh with
    online := true, door := true, battery := 80, seq := 5, sent := 5, received := 1
    lastSeen := some 1700000000, alarm := .doorOpenNow, pendArmed := true, pendT0 := 1000 }

/-- The reset state with slot 3 as given, and with slots 3 and 5. -/
def with3 (m : Slot) : State := { State.reset with rx := Receiver.reset.setSlot 3 (some m) }
def with35 (m n : Slot) : State := { State.reset with rx := ((Receiver.reset.setSlot 3 (some m)).setSlot 5 (some n)).recompute }

/-- The reset state with V1 held. -/
def holding : State :=
  { State.reset with rx := { Receiver.reset with rxBuf := v1, rxArmed := false, rxMsgValid := true } }

/-- Assembling, with `n` bytes of the given frame in the buffer since `t0`. -/
def assembling (F : Frame) (n : Fin 8) (t0 : Time) : State :=
  { State.reset with rx := { Receiver.reset with rxBuf := F, rxState := .assembling, rxCount := n, rxT0 := t0 } }

/-- A sensor awake and not settling, as V60 starts. -/
def awake : State :=
  { State.reset with tx := { Sensor.reset with
    bootFlag := false, txSeq := 4, txBatt := 80, battFirstPending := false, radioAwake := some true } }

/-- A store with a record for id 3 and a malformed one for id 9 (V160). -/
def probe160 : Vector ProbeAnswer 15 :=
  ((Vector.replicate 15 .noRecord).set 2 (.record [0x66, 0x67] (some 1699000000) 64)).set 8 .malformed

/-- Operand inputs with a value in every port. -/
def ops : Operands where
  fields := f1
  frame := v1
  name := .seq
  value := .door false
  seq := 5
  byte := 0x11
  bytes := [0x11, 0x36]
  now := 1000
  wall := some 1700000000
  online := true
  door := false
  rearm := true
  raw := 700
  id := 3
  actor := [0x61]
  target := .all
  probe := probe160
  createFails := true
  fails := false

def env0 : DispatchEnv := ⟨1000, some 1700000000, false, false⟩

/-! ### Well-formedness: one ill-formed term for each check -/

theorem test_wf_reference : cfg0.wf = true := by decide
theorem test_wf_refuses_mailbox_id_zero : { cfg0 with txMboxId := 0 }.wf = false := by decide
theorem test_wf_refuses_adc_range : { cfg0 with adcMax := 500 }.wf = false := by decide
theorem test_wf_refuses_ema_div_zero : { cfg0 with emaDiv := 0 }.wf = false := by decide
theorem test_wf_refuses_batt_low : { cfg0 with battLowPct := 101 }.wf = false := by decide
theorem test_wf_refuses_rx_timeout : { cfg0 with rxTimeoutMs := 0 }.wf = false ∧ { cfg0 with rxTimeoutMs := 2 ^ 31 }.wf = false := by
  decide
theorem test_wf_refuses_pending_timeout :
    { cfg0 with pendingTimeoutMs := 0 }.wf = false ∧ { cfg0 with pendingTimeoutMs := 2 ^ 31 }.wf = false := by decide
theorem test_wf_refuses_loss_sanity : { cfg0 with lossSanityMax := 65536 }.wf = false := by decide
theorem test_wf_refuses_bounce : { cfg0 with bounceMs := 65537 }.wf = false := by decide
theorem test_wf_refuses_absence_window : { cfg0 with absenceWindowS := 0 }.wf = false := by decide
theorem test_wf_refuses_rollcall_period : { cfg0 with rollcallPeriod := 0 }.wf = false := by decide
theorem test_wf_refuses_slot_zero :
    (Instr.mbApply f6 0 none false).wf cfg0 = false ∧ (Instr.mbPendFire 0 0).wf cfg0 = false ∧
    (Instr.mbHealth 0 none).wf cfg0 = false ∧ (Instr.mbAck 0).wf cfg0 = false ∧ (Instr.mbReliability 0).wf cfg0 = false := by decide
theorem test_wf_refuses_ack_of_zero : (Instr.regAck [] (.one 0)).wf cfg0 = false := by decide
theorem test_wf_refuses_long_label :
    (Instr.regLoad (probe160.set 0 (.record (List.replicate 33 0x61) none 0))).wf cfg0 = false := by decide

/-! ### Decoding: the command codes of R151, written out, with every operand port in use -/

theorem test_decode_codec :
    decodeCommand 0b00000001 ops = some (.codecEncode f1) ∧ decodeCommand 0b00000010 ops = some (.codecDecode v1) ∧
    decodeCommand 0b00000011 ops = some (.checksum v1) ∧ decodeCommand 0b00000100 ops = some (.checksumOk v1) ∧
    decodeCommand 0b00000101 ops = some (.versionOk v1) ∧ decodeCommand 0b00000110 ops = some (.nextSeq 5) ∧
    decodeCommand 0b00000111 ops = some (.getf v1 .seq) ∧ decodeCommand 0b00001000 ops = some (.setf v1 (.door false)) := by decide

theorem test_decode_receiver :
    decodeCommand 0b00010000 ops = some (.rxByte 0x11 1000) ∧ decodeCommand 0b00010001 ops = some (.rxTick 1000) ∧
    decodeCommand 0b00010010 ops = some (.rxService [0x11, 0x36] 1000) ∧ decodeCommand 0b00010011 ops = some .msgAvail ∧
    decodeCommand 0b00010100 ops = some (.takeMsg true) ∧ decodeCommand 0b00010101 ops = some .rxArm := by decide

theorem test_decode_sensor :
    decodeCommand 0b00100000 ops = some (.txSend true false 1000) ∧ decodeCommand 0b00100001 ops = some (.txSleep 1000) ∧
    decodeCommand 0b00100010 ops = some (.txWakeup 1000) ∧ decodeCommand 0b00100011 ops = some (.battSample 700) ∧
    decodeCommand 0b00100100 ops = some .retSave := by decide

theorem test_decode_mailbox :
    decodeCommand 0b00110000 ops = some (.mbApply f1 1000 (some 1700000000) false) ∧
    decodeCommand 0b00110001 ops = some (.mbPendFire 3 1000) ∧
    decodeCommand 0b00110010 ops = some (.mbHealth 3 (some 1700000000)) ∧ decodeCommand 0b00110011 ops = some (.mbAck 3) ∧
    decodeCommand 0b00110100 ops = some (.mbReliability 3) := by decide

theorem test_decode_registry :
    decodeCommand 0b01000000 ops = some (.regLookupOrCreate 3 false) ∧ decodeCommand 0b01000001 ops = some (.regDelete 3 false) ∧
    decodeCommand 0b01000010 ops = some (.regDispatch f1 ⟨1000, some 1700000000, true, false⟩) ∧
    decodeCommand 0b01000011 ops = some .regRecompute ∧ decodeCommand 0b01000100 ops = some (.regAck [0x61] .all) ∧
    decodeCommand 0b01000101 ops = some (.regRollcall (some 1700000000)) ∧ decodeCommand 0b01000110 ops = some (.regTimers 1000) ∧
    decodeCommand 0b01000111 ops = some .regEnum ∧ decodeCommand 0b01001000 ops = some (.regLoad probe160) := by decide

/-- The three frame classes, from V1, V12 and V3 in wire order (R130). -/
theorem test_decode_frames :
    (decode ⟨[0x11, 0x36, 0x00, 0x05, 0x01, 0x2C, 0xA0, 0xAF], ops⟩).toOption =
      some (.frmOpen ⟨1, 1, 3, true, false, 5, 300, 80, false, 0xAF⟩ ⟨1000, some 1700000000, true, false⟩) ∧
    (decode ⟨[0x11, 0x38, 0x00, 0x01, 0x00, 0x78, 0x9A, 0xCA], ops⟩).toOption =
      some (.frmBoot ⟨1, 1, 3, false, false, 1, 120, 77, false, 0xCA⟩ false ⟨1000, some 1700000000, true, false⟩) ∧
    (decode ⟨[0x11, 0x30, 0x00, 0x06, 0x10, 0x68, 0xA0, 0xFF], ops⟩).toOption =
      some (.frmClosed ⟨1, 1, 3, false, false, 6, 4200, 80, false, 0xFF⟩ ⟨1000, some 1700000000, true, false⟩) := by decide

/-- Unassigned codes, and words of any other length, are rejected by name. -/
theorem test_decode_rejects :
    decode ⟨[0x09], ops⟩ = .error (.unassignedCode 0x09) ∧ decode ⟨[0x49], ops⟩ = .error (.unassignedCode 0x49) ∧
    decode ⟨[0x00], ops⟩ = .error (.unassignedCode 0x00) ∧ decode ⟨[], ops⟩ = .error (.badLength 0) ∧
    decode ⟨[0x11, 0x36], ops⟩ = .error (.badLength 2) := ⟨rfl, rfl, rfl, rfl, rfl⟩

/-! ### One step: the vectors of 95_test_vectors.md -/

/-- V1. -/
theorem test_encode : answer (.codecEncode f1) State.reset = some (.frame v1) := by decide
/-- V5: broadcast, largest id, largest uptime, unknown battery. -/
theorem test_encode_extremes : answer (.codecEncode ⟨0, 15, true, false, false, 1, 65535, 127⟩) State.reset =
    some (.frame #v[0x10, 0xF8, 0x00, 0x01, 0xFF, 0xFF, 0xFE, 0x17]) := by decide
/-- V20: both reserved bits set. -/
theorem test_decode_reserved :
    answer (.codecDecode #v[0x11, 0x37, 0x00, 0x05, 0x01, 0x2C, 0xA1, 0xAF]) State.reset = some (.decoded (.ok f1)) := by decide
/-- V17 and V19: the version is tested first. -/
theorem test_decode_errors :
    answer (.codecDecode (v1.set 7 0xAE)) State.reset = some (.decoded .checksumMismatch) ∧
    answer (.codecDecode (v1.set 0 0x21)) State.reset = some (.decoded .versionMismatch) := by decide
/-- V26 and V27. -/
theorem test_checksum :
    answer (.checksum (v1.set 7 0)) State.reset = some (.byte 0xAF) ∧
    answer (.checksum #v[0xFF, 0xFF, 0xFF, 0xFF, 0xFF, 0xFF, 0xFF, 0x00]) State.reset = some (.byte 0xFF) := by decide
/-- V24 and V28. -/
theorem test_checksumOk :
    answer (.checksumOk (v1.set 3 0x04)) State.reset = some (.bool false) ∧
    answer (.checksumOk ((v1.set 0 0x36).set 1 0x11)) State.reset = some (.bool true) := by decide
/-- V29a. -/
theorem test_versionOk :
    answer (.versionOk (v1.set 0 0x10)) State.reset = some (.bool true) ∧
    answer (.versionOk (v1.set 0 0x01)) State.reset = some (.bool false) := by decide
/-- V30, V34, V36, V37. -/
theorem test_nextSeq :
    answer (.nextSeq 0) State.reset = some (.seq 1) ∧ answer (.nextSeq 0x7FFF) State.reset = some (.seq 0x8000) ∧
    answer (.nextSeq 0xFFFE) State.reset = some (.seq 0xFFFF) ∧ answer (.nextSeq 0xFFFF) State.reset = some (.seq 2) := by decide
/-- V29b. -/
theorem test_getf :
    answer (.getf v1 .door) State.reset = some (.value (.door true)) ∧
    answer (.getf v1 .uptime) State.reset = some (.value (.uptime 300)) ∧
    answer (.getf v1 .battery) State.reset = some (.value (.battery 80)) := by decide
/-- V29c, V29d, V29e. -/
theorem test_setf :
    answer (.setf v1 (.door false)) State.reset = some (.frame (v1.set 1 0x34)) ∧
    answer (.setf v1 (.seq 0xFFFF)) State.reset = some (.frame ((v1.set 2 0xFF).set 3 0xFF)) ∧
    answer (.setf v1 (.battery 127)) State.reset = some (.frame (v1.set 6 0xFE)) := by decide
/-- V41, V43: a bad first byte. -/
theorem test_rxByte_first :
    (after (.rxByte 0x21 1000) State.reset).rx.events = [.condition (.badVersion 0x21)] ∧
    (after (.rxByte 0x12 1000) State.reset).rx.events = [.condition (.badAddress 0x12)] ∧
    (after (.rxByte 0x22 1000) State.reset).rx.events = [.condition (.badVersion 0x22)] := by decide
/-- V46: the eighth byte wrong. -/
theorem test_rxByte_last :
    (after (.rxByte 0xAE 1007) (assembling v1 7 1000)).rx.events = [.condition (.badChecksum (v1.set 7 0xAE))] ∧
    (after (.rxByte 0xAE 1007) (assembling v1 7 1000)).rx.rxArmed = true := by decide
/-- V47, V48: at the deadline and one before, and across the clock's wrap. -/
theorem test_rxTick :
    answer (.rxTick 1499) (assembling v1 1 1000) = some .notExpired ∧ answer (.rxTick 1500) (assembling v1 1 1000) = some .expired ∧
    answer (.rxTick 403) (assembling v1 1 4294967200) = some .notExpired ∧
    answer (.rxTick 404) (assembling v1 1 4294967200) = some .expired := by decide
/-- V56. -/
theorem test_rxService_noise :
    answer (.rxService [0x00, 0x21, 0x12, 0x11, 0x36, 0xFF] 5000) State.reset = some (.consumed 6) ∧
    (after (.rxService [0x00, 0x21, 0x12, 0x11, 0x36, 0xFF] 5000) State.reset).rx.events =
      [.condition (.badVersion 0x00), .condition (.badVersion 0x21), .condition (.badAddress 0x12)] := by decide
/-- V51: the bytes after a whole frame stay with the environment. -/
theorem test_rxService_frame :
    answer (.rxService (v1.toList ++ [0x11, 0x36]) 1000) State.reset = some (.consumed 8) ∧
    (after (.rxService (v1.toList ++ [0x11, 0x36]) 1000) State.reset).rx.rxMsgValid = true := by decide
/-- V52, V54. -/
theorem test_msgAvail :
    answer .msgAvail holding = some (.bool true) ∧ answer .msgAvail State.reset = some (.bool false) := by decide
/-- V53, V54. -/
theorem test_takeMsg :
    answer (.takeMsg false) holding = some (.message (some f1)) ∧ (after (.takeMsg false) holding).rx.rxArmed = false ∧
    (after (.takeMsg true) holding).rx.rxArmed = true ∧ answer (.takeMsg true) State.reset = some (.message none) := by decide
/-- V52, V53. -/
theorem test_rxArm :
    answer .rxArm holding = some .armRefused ∧ answer .rxArm (after (.takeMsg false) holding) = some .armed := by decide
/-- V60, V64. -/
theorem test_txSend :
    answer (.txSend true true 300) awake = some (.frame v1) ∧ (after (.txSend true true 300) awake).tx.link = v1.toList ∧
    answer (.txSend true true 70000) { awake with tx := { awake.tx with txSeq := 8, txBatt := 127 } } =
      some (.frame #v[0x11, 0x36, 0x00, 0x09, 0x11, 0x70, 0xFE, 0xB1]) := by decide
/-- V63, V65. -/
theorem test_txSend_corners :
    answer (.txSend false false 900) { awake with tx := { awake.tx with txSeq := 0xFFFF, txBatt := 60 } } =
      some (.frame #v[0x11, 0x30, 0x00, 0x02, 0x03, 0x84, 0x78, 0xDC]) ∧
    refusal (.txSend true true 300) State.reset = some .radioNotAwake := by decide
/-- V61. -/
theorem test_txSleep :
    answer (.txSleep 339) (after (.txSend true true 300) awake) = some .held ∧
    (after (.txSleep 340) (after (.txSend true true 300) awake)).tx.radioAwake = some false := by decide
/-- V66. -/
theorem test_txWakeup :
    (after (.txWakeup 20) State.reset).tx.events = [.radioPower .wake] ∧
    answer (.txSend true true 269) (after (.txWakeup 20) State.reset) = some .held := by decide
/-- V70 (650 from 50), V73, V74. -/
theorem test_battSample :
    (after (.battSample 650) { awake with tx := { awake.tx with txBatt := 50 } }).tx.txBatt = 46 ∧
    (after (.battSample 1200) { awake with tx := { awake.tx with txBatt := 98 } }).tx.txBatt = 98 ∧
    (after (.battSample 0) { awake with tx := { awake.tx with txBatt := 3 } }).tx.txBatt = 3 := by decide
/-- V70: the first reading is dropped, the second stored outright. -/
theorem test_battSample_first :
    (after (.battSample 700) State.reset).tx.txBatt = 127 ∧
    (after (.battSample 750) (after (.battSample 700) State.reset)).tx.txBatt = 50 := by decide
/-- V67. -/
theorem test_retSave :
    (after .retSave { awake with tx := { awake.tx with txSeq := 6, txBatt := 46 } }).tx.retSeq = 6 ∧
    (after .retSave { awake with tx := { awake.tx with txSeq := 6, txBatt := 46 } }).tx.retBatt = 46 := by decide
/-- S-1. -/
theorem test_mbApply_scenario1 :
    answer (.mbApply f1 1000 (some 1700000000) false) (with3 fresh) =
      some (.applied ⟨.noAlarm, .doorOpenNow, 4, false, 2, false⟩) ∧
    (after (.mbApply f1 1000 (some 1700000000) false) (with3 fresh)).rx.slot? 3 = some s1slot ∧
    (after (.mbApply f1 1000 (some 1700000000) false) (with3 fresh)).rx.events =
      [.notifyLostMessages 2, .notifyEvent 3 300 false, .persistWrite 3 [] (some 1700000000) 80] := by decide
/-- V107 (a number that repeats) and V105 (a boot frame). -/
theorem test_mbApply_desync_and_boot :
    answer (.mbApply f3 70000 none false) (with3 { s1slot with seq := 6, sent := 6, alarm := .doorFlipped, pendArmed := false }) =
      some (.applied ⟨.doorFlipped, .doorFlipped, 65535, true, 32767, false⟩) ∧
    answer (.mbApply f12 70000 none false) (with3 { s1slot with seq := 40, sent := 41, received := 30, alarm := .doorLeftOpen }) =
      some (.applied ⟨.doorLeftOpen, .booted, 0, false, 0, false⟩) := by decide
/-- S-3 and V108. -/
theorem test_mbPendFire :
    answer (.mbPendFire 3 60999) (with3 s1slot) = some .notDue ∧
    (after (.mbPendFire 3 61000) (with3 s1slot)).rx.slot? 3 =
      some { s1slot with seq := 6, sent := 6, alarm := .doorFlipped, pendArmed := false } := by decide
/-- V110: acknowledged before it fires. -/
theorem test_mbPendFire_acknowledged :
    ((after (.mbPendFire 3 61000) (with3 { s1slot with alarm := .noAlarm })).rx.slot? 3).map Slot.alarm = some .noAlarm := by decide
/-- V120, V121. -/
theorem test_mbHealth_absence :
    answer (.mbHealth 3 (some 1259200)) (with3 { fresh with lastSeen := some 1000000, battery := 80 }) = some (.bool true) ∧
    (after (.mbHealth 3 (some 1259201)) (with3 { fresh with lastSeen := some 1000000, battery := 80 })).rx.events =
      [.notifyAbsent 3] := by decide
/-- V131, V133. -/
theorem test_mbHealth_battery :
    (after (.mbHealth 3 none) (with3 { fresh with battery := 18, alarm := .doorFlipped })).rx.events = [.notifyLowBattery 3] ∧
    (after (.mbHealth 3 (some 1345600)) (with3 { fresh with lastSeen := some 1000000, battery := 10 })).rx.events =
      [.notifyAbsent 3, .notifyLowBattery 3] := by decide
/-- V140. -/
theorem test_mbAck :
    answer (.mbAck 3) (with3 { s1slot with battReported := true }) = some (.severity .doorOpenNow) ∧
    (after (.mbAck 3) (with3 { s1slot with battReported := true })).rx.slot? 3 = some { s1slot with alarm := .noAlarm } := by decide
/-- V142, V143, V145. -/
theorem test_mbReliability :
    answer (.mbReliability 3) (with3 { s1slot with sent := 7, received := 2 }) = some (.percent (some 28)) ∧
    answer (.mbReliability 3) (with3 fresh) = some (.percent none) ∧
    refusal (.mbReliability 4) (with3 fresh) = some (.slotNotRegistered 4) := by decide
/-- V150, V151. -/
theorem test_regLookupOrCreate :
    (after (.regLookupOrCreate 3 false) State.reset).rx.events = [.persistWrite 3 [] none 127] ∧
    answer (.regLookupOrCreate 3 false) (with3 fresh) = some .found ∧
    answer (.regLookupOrCreate 0 false) State.reset = some .rejected := by decide
/-- V154. -/
theorem test_regDelete :
    (after (.regDelete 3 false) (with35 s1slot { fresh with alarm := .lowBattery })).rx.globalAlarm = .lowBattery ∧
    answer (.regDelete 7 false) (with35 s1slot fresh) = some .notFound := by decide
/-- V153. -/
theorem test_regDispatch_creates :
    (after (.regDispatch f1 env0) State.reset).rx.events =
      [.persistWrite 3 [] none 127, .notifyLostMessages 2, .notifyEvent 3 300 false,
       .persistWrite 3 [] (some 1700000000) 80] ∧
    (after (.regDispatch f1 env0) State.reset).rx.globalAlarm = .doorOpenNow := by decide
/-- V152. -/
theorem test_regDispatch_rejects :
    answer (.regDispatch f6 env0) State.reset = some .rejected ∧
    (after (.regDispatch f6 env0) State.reset).rx.events = [.condition (.invalidId 0)] := by decide
/-- V154, V155. -/
theorem test_regRecompute :
    answer .regRecompute (with35 s1slot { fresh with alarm := .lowBattery }) = some (.severity .doorOpenNow) ∧
    answer .regRecompute State.reset = some (.severity .noAlarm) := by decide
/-- V156. -/
theorem test_regAck :
    answer (.regAck [] (.one 7)) (with35 s1slot { fresh with alarm := .lowBattery }) = some (.severity .noAlarm) ∧
    (after (.regAck [] (.one 5)) (with35 s1slot { fresh with alarm := .lowBattery })).rx.globalAlarm = .doorOpenNow ∧
    answer (.regAck [] .all) (with35 s1slot { fresh with alarm := .lowBattery }) = some (.severity .doorOpenNow) ∧
    (after (.regAck [] .all) (with35 s1slot { fresh with alarm := .lowBattery })).rx.globalAlarm = .noAlarm := by decide
/-- V162. -/
theorem test_regRollcall :
    answer (.regRollcall (some 1700000000)) (with35 s1slot { fresh with battery := 18, alarm := .doorFlipped }) =
      some (.health [(3, true), (5, false)]) ∧
    (after (.regRollcall (some 1700000000)) (with35 s1slot { fresh with battery := 18, alarm := .doorFlipped })).rx.events =
      [.notifyLowBattery 5] := by decide
/-- V158. -/
theorem test_regTimers :
    answer (.regTimers 61000) (with35 s1slot { s1slot with pendT0 := 30000 }) = some (.ids [3]) ∧
    answer (.regTimers 90000) (after (.regTimers 61000) (with35 s1slot { s1slot with pendT0 := 30000 })) = some (.ids [5]) := by decide
/-- V157: records by ascending id. -/
theorem test_regEnum : answer .regEnum (with35 s1slot fresh) = some (.records [(3, s1slot), (5, fresh)]) := by decide
/-- V160, V161. -/
theorem test_regLoad :
    answer (.regLoad probe160) State.reset = some (.ids [3]) ∧
    (after (.regLoad probe160) State.reset).rx.events = [.condition (.badRecord 9)] ∧
    answer (.regLoad probe160) (with3 s1slot) = some (.ids []) := by decide
/-- V12 as a frame word, over the slot of V105. -/
theorem test_frmBoot :
    answer (.frmBoot ⟨1, 1, 3, false, false, 1, 120, 77, false, 0xCA⟩ false env0) (with3 { s1slot with alarm := .doorLeftOpen }) =
      some (.dispatched false ⟨.doorLeftOpen, .booted, 0, false, 0, false⟩) := by decide
/-- S-2's alarm, and V17: a frame with a wrong checksum is discarded. -/
theorem test_frmOpen :
    ((after (.frmOpen ⟨1, 1, 3, true, false, 5, 300, 80, false, 0xAF⟩ env0) (with3 s1slot)).rx.slot? 3).map Slot.alarm =
      some .doorLeftOpen ∧
    answer (.frmOpen ⟨1, 1, 3, true, false, 5, 300, 80, false, 0xAE⟩ env0) (with3 s1slot) = some .discarded := by decide
/-- V102: V3 closes. -/
theorem test_frmClosed :
    answer (.frmClosed ⟨1, 1, 3, false, false, 6, 4200, 80, false, 0xFF⟩ env0) (with3 s1slot) =
      some (.dispatched false ⟨.doorOpenNow, .doorFlipped, 0, false, 0, false⟩) := by decide

/-- R260: `MB_ACK(3)` issued by itself, then the global alarm of the only slot left alarmed (V154's slots); the result is its own. -/
theorem test_step_recomputes :
    (afterStep { with35 s1slot { fresh with alarm := .lowBattery } with pending := [.request ⟨[0x33], ops⟩] }).rx.globalAlarm =
      .lowBattery ∧
    (afterStep { with35 s1slot { fresh with alarm := .lowBattery } with pending := [.request ⟨[0x33], ops⟩] }).result =
      .severity .doorOpenNow := by decide

/-- U22: what breaks R36 is not a configuration, whatever the environment does next. -/
theorem test_step_refuses_ill_formed_configuration :
    stepRefusal { State.reset with cfg := { cfg0 with adcMax := 500 }, pending := [.request ⟨[0x23], ops⟩] } =
      some .illFormedConfiguration ∧
    stepRefusal { State.reset with cfg := { cfg0 with adcMax := 500 }, pending := [.receiverStart] } =
      some .illFormedConfiguration := by decide

/-! ### Witnesses: a state and operands that meet a statement's hypotheses together, one for each clause -/

/-- Slots 3 and 5 with a true global alarm. -/
def two : State := with35 s1slot { fresh with alarm := .lowBattery, battery := 15 }

/-- `CodecRoundTrip`, and `SingleBitFlipDetected` and `ChecksumWeaknessKept`. -/
theorem wit_codec : exec (.codecDecode v1) State.reset = .next { State.reset with result := .decoded (.ok f1) } ∧
    exec (.checksumOk v1) State.reset = .next { State.reset with result := .bool true } := ⟨rfl, rfl⟩

/-- `RxByteFirstByte`: each of its four cases. -/
theorem wit_rxByteFirstByte :
    (after .msgAvail holding).rx.rxArmed = false ∧ State.reset.rx.rxArmed = true ∧ State.reset.rx.rxState = .idle ∧
    (0x21#8).toNat / 16 ≠ State.reset.cfg.protoVersion.toNat ∧
    ((0x12#8).toNat / 16 = State.reset.cfg.protoVersion.toNat ∧
      (0x12#8).toNat % 16 ≠ State.reset.cfg.ownAddr.toNat ∧ (0x12#8).toNat % 16 ≠ 0) ∧
    (0x10#8).toNat / 16 = State.reset.cfg.protoVersion.toNat ∧ (0x10#8).toNat % 16 = 0 := by decide

/-- `RxByteContinuesAndCompletes`: bytes 1 and 6, and the eighth, right and wrong. -/
theorem wit_rxByteContinues :
    (assembling v1 1 0).rx.rxArmed = true ∧ (assembling v1 1 0).rx.rxState = .assembling ∧ (assembling v1 1 0).rx.rxCount ≠ 7 ∧
    (assembling v1 6 0).rx.rxCount ≠ 7 ∧ (assembling v1 7 0).rx.rxCount = 7 ∧
    xorAll ((assembling v1 7 0).rx.rxBuf.set 7 0xAF) = 0#8 ∧ xorAll ((assembling v1 7 0).rx.rxBuf.set 7 0xAE) ≠ 0#8 := by decide

/-- `RxTickDeadline`: at the deadline, and one before it. -/
theorem wit_rxTick : (assembling v1 3 0).rx.rxState = .assembling ∧
    (assembling v1 3 0).cfg.rxTimeoutMs ≤ ((500#32).toNat + 2 ^ 32 - (assembling v1 3 0).rx.rxT0.toNat) % 2 ^ 32 ∧
    ¬ (assembling v1 3 0).cfg.rxTimeoutMs ≤ ((499#32).toNat + 2 ^ 32 - (assembling v1 3 0).rx.rxT0.toNat) % 2 ^ 32 := by decide

/-- `RxServiceBytesThenTick`: the second clause on no bytes and on a byte not taken, the third on the first byte of V1. -/
theorem wit_rxService :
    exec (.rxTick 5) State.reset = .next (after (.rxTick 5) State.reset) ∧
    holding.rx.rxArmed = false ∧ exec (.rxTick 5) holding = .next (after (.rxTick 5) holding) ∧
    State.reset.rx.rxArmed = true ∧ exec (.rxByte 0x11 5) State.reset = .next (after (.rxByte 0x11 5) State.reset) ∧
    ∃ t, exec (.rxService [0x36] 5) (after (.rxByte 0x11 5) State.reset) = .next t ∧ t.result = .consumed 1 :=
  ⟨rfl, rfl, rfl, rfl, rfl, _, rfl, rfl⟩

/-- `TakeMsgHandsOutOnce`: nothing held, and V1 held. -/
theorem wit_takeMsg : State.reset.rx.rxMsgValid = false ∧ holding.rx.rxMsgValid = true ∧
    holding.rx.rxBuf[0].toNat / 16 = holding.cfg.protoVersion.toNat ∧ xorAll holding.rx.rxBuf = 0#8 := by decide

theorem v1_accepted : Accepted cfg0 v1 := ⟨⟨by decide, by decide⟩, by decide⟩
theorem v3_accepted : Accepted cfg0 v3 := ⟨⟨by decide, by decide⟩, by decide⟩
theorem v12_accepted : Accepted cfg0 v12 := ⟨⟨by decide, by decide⟩, by decide⟩

/-- `AcceptedFrameIsExposed`: an accepted frame, and one with a good first byte and a wrong checksum. -/
theorem wit_acceptedFrame : State.reset.rx.ListeningIdle ∧ Accepted State.reset.cfg v1 ∧
    FirstByteGood State.reset.cfg (v1.set 7 0xAE)[0] ∧ ¬ Accepted State.reset.cfg (v1.set 7 0xAE) :=
  ⟨⟨rfl, rfl, rfl⟩, v1_accepted, ⟨by decide, by decide⟩, fun h => absurd h.2 (by decide)⟩

/-- `HeldFrameCannotChange`, with an operation that would put another byte in. -/
theorem wit_heldFrame : holding.rx.rxMsgValid = true ∧ holding.rx.rxArmed = false ∧ holding.rx.rxState = .idle ∧
    (∀ rearm, Instr.rxByte 0x11 5 ≠ .takeMsg rearm) ∧ exec (.rxByte 0x11 5) holding = .next (after (.rxByte 0x11 5) holding) :=
  ⟨rfl, rfl, rfl, fun _ => Instr.noConfusion, rfl⟩

/-- `TxSendStampsAndSends`, and `RadioPowerOperations`. -/
theorem wit_txSend : ¬ ((300#32).toNat + 2 ^ 32 - awake.tx.txBusyT0.toNat) % 2 ^ 32 < awake.tx.txBusyDur ∧
    awake.tx.radioAwake = some true := by decide

/-- `RadioOperationsHeldOrRefused`: settling (one before the end of it), and not settling with the radio asleep, or not known. -/
theorem wit_radioHeld :
    ((339#32).toNat + 2 ^ 32 - (after (.txSend true true 300) awake).tx.txBusyT0.toNat) % 2 ^ 32 <
      (after (.txSend true true 300) awake).tx.txBusyDur ∧
    ¬ ((40#32).toNat + 2 ^ 32 - (after (.txSleep 0) awake).tx.txBusyT0.toNat) % 2 ^ 32 < (after (.txSleep 0) awake).tx.txBusyDur ∧
    (after (.txSleep 0) awake).tx.radioAwake ≠ some true ∧ State.reset.tx.radioAwake ≠ some true := by decide

/-- `BattSampleRule` and `BatteryMovesTowardReading`: the dropped reading, a kept one from unknown and from a percentage. -/
theorem wit_battSample : State.reset.cfg.wf = true ∧ State.reset.tx.battFirstPending = true ∧ awake.cfg.wf = true ∧
    awake.tx.battFirstPending = false ∧ awake.tx.txBatt.toNat ≤ 100 ∧
    (after (.battSample 700) State.reset).tx.battFirstPending = false ∧ (after (.battSample 700) State.reset).tx.txBatt.toNat = 127 ∧
    (30 : Int) = (max awake.cfg.adcMin (min 653 awake.cfg.adcMax) - awake.cfg.adcMin) * 100 / (awake.cfg.adcMax - awake.cfg.adcMin) := by
  decide
theorem wit_batteryMoves : exec (.battSample 653) awake = .next (after (.battSample 653) awake) := rfl

/-- `SequenceSurvivesSleep`. -/
theorem wit_sequenceSurvivesSleep : ∃ s1 s2 s3 s4, exec .retSave awake = .next s1 ∧
    step { s1 with pending := [.sensorStart .wakeFromSleep] } = .next s2 ∧ exec (.txWakeup 20) s2 = .next s3 ∧
    exec (.txSend true true 270) s3 = .next s4 ∧ s4.result ≠ .held :=
  ⟨_, _, _, _, rfl, rfl, rfl, rfl, Result.noConfusion⟩

/-- `MbApplyRule`, with its named values for S-1 and for a boot frame. -/
theorem wit_mbApply : (with3 fresh).rx.slot? f1.id = some fresh ∧ (with3 s1slot).rx.slot? f12.id = some s1slot := by decide

/-- `MbPendFireRule`: due, one before, and not armed. -/
theorem wit_mbPendFire : (with3 s1slot).rx.slot? 3 = some s1slot ∧
    (s1slot.pendArmed = true ∧ (with3 s1slot).cfg.pendingTimeoutMs ≤ ((61000#32).toNat + 2 ^ 32 - s1slot.pendT0.toNat) % 2 ^ 32) ∧
    ¬ (with3 s1slot).cfg.pendingTimeoutMs ≤ ((60999#32).toNat + 2 ^ 32 - s1slot.pendT0.toNat) % 2 ^ 32 ∧
    (with3 fresh).rx.slot? 3 = some fresh ∧ fresh.pendArmed = false := by decide

/-- `MbHealthRule`: absent and low; neither. -/
theorem wit_mbHealth :
    ((true = true ↔ ∃ w l, (some 1345600 : Wall) = some w ∧ ({ fresh with lastSeen := some 1000000, battery := 10 } : Slot).lastSeen = some l ∧
        l ≤ w ∧ cfg0.absenceWindowS < w - l) ∧
      (true = true ↔ ({ fresh with battery := 10 } : Slot).battery.toNat ≤ cfg0.battLowPct)) ∧
    ((false = true ↔ ∃ w l, (none : Wall) = some w ∧ fresh.lastSeen = some l ∧ l ≤ w ∧ cfg0.absenceWindowS < w - l) ∧
      (false = true ↔ fresh.battery.toNat ≤ cfg0.battLowPct)) := by
  refine ⟨⟨⟨fun _ => ⟨_, _, rfl, rfl, by decide, by decide⟩, fun _ => rfl⟩, by decide⟩, ⟨⟨nofun, nofun⟩, by decide⟩⟩

/-- `MbAckRule`, `MbReliabilityRule`: nothing sent, and something. -/
theorem wit_mbAck : (with3 fresh).rx.slot? 3 = some fresh ∧ fresh.sent = 0 ∧ (with3 s1slot).rx.slot? 3 = some s1slot ∧
    0 < s1slot.sent ∧ s1slot.received ≤ s1slot.sent := by decide

/-- `MbOperationsRefusedOnInvalidSlot`: id 0, and a slot that is not valid. -/
theorem wit_mbRefused : f6.id = 0#4 ∧ State.reset.rx.slot? f1.id = none := by decide

/-- `AlarmChangesOnlyByTheTable` and `CountersOnlyGrow`: a frame, a firing, a health check and an acknowledgement, each of which
changes slot 3's alarm. -/
theorem wit_alarmChanges :
    (with3 fresh).rx.slot? 3 = some fresh ∧ (with3 s1slot).rx.slot? 3 = some s1slot ∧
    (∃ t m', exec (.mbApply f1 5 none false) (with3 fresh) = .next t ∧ t.rx.slot? 3 = some m' ∧ m'.alarm ≠ fresh.alarm) ∧
    (∃ t m', exec (.regTimers 61000) (with3 s1slot) = .next t ∧ t.rx.slot? 3 = some m' ∧ m'.alarm ≠ s1slot.alarm) ∧
    (∃ t m', exec (.regRollcall none) (with3 { fresh with battery := 20 }) = .next t ∧ t.rx.slot? 3 = some m' ∧
      m'.alarm ≠ ({ fresh with battery := 20 } : Slot).alarm) ∧
    (∃ t m', exec (.regAck [] .all) (with3 s1slot) = .next t ∧ t.rx.slot? 3 = some m' ∧ m'.alarm ≠ s1slot.alarm) :=
  ⟨rfl, rfl, ⟨_, _, rfl, rfl, by decide⟩, ⟨_, _, rfl, rfl, by decide⟩, ⟨_, _, rfl, rfl, by decide⟩, ⟨_, _, rfl, rfl, by decide⟩⟩

/-- The `GlobalOk` of `two`: its maximum is slot 3's alarm. -/
theorem two_slots : ∀ i : MailboxId,
    two.rx.slot? i = (if i = 3 then some s1slot else if i = 5 then some { fresh with alarm := .lowBattery, battery := 15 } else none) := by
  decide
theorem two_globalOk : two.rx.GlobalOk where
  above i m h := by
    rw [two_slots] at h
    split at h
    · cases h; decide
    · split at h
      · cases h; decide
      · cases h
  attained := .inr ⟨3, s1slot, by decide, by decide⟩

/-- `LookupOrCreateRule` and `DeleteRule`: id 0, a valid slot, a free id. -/
theorem wit_registry : two.rx.slot? 3 = some s1slot ∧ (4#4 ≠ 0#4 ∧ two.rx.slot? 4 = none) ∧ two.rx.slot? 0 = none := by decide

/-- `DispatchIsLookupApplyRecompute`: both ids. -/
theorem wit_dispatch : f6.id = 0#4 ∧ f1.id ≠ 0#4 := by decide

/-- `AcknowledgeRule`, `RollcallChecksEveryMailbox`, `TimersFireDueMailboxes`, `RecomputeIsMaximum`: valid and invalid slots. -/
theorem wit_sweeps : two.rx.GlobalOk ∧ two.rx.slot? 7 = none ∧ two.rx.slot? 3 = some s1slot ∧
    exec (.mbHealth 3 none) two = .next (after (.mbHealth 3 none) two) ∧
    exec (.mbPendFire 3 61000) two = .next (after (.mbPendFire 3 61000) two) :=
  ⟨two_globalOk, by decide, by decide, rfl, rfl⟩

/-- `LoadRule`: a valid slot; a free id with a record that fits, a malformed one, none, and one whose label does not fit. -/
theorem wit_load : (with3 s1slot).rx.slot? 3 = some s1slot ∧ State.reset.rx.slot? 3 = none ∧ State.reset.rx.slot? 9 = none ∧
    State.reset.rx.slot? 15 = none ∧ ¬ (List.replicate 33 (0x61 : Byte)).length ≤ State.reset.cfg.labelMax := by decide

/-- `UnacceptedFrameDiscarded`: a version, an address and a checksum that are wrong. -/
theorem wit_unaccepted :
    (decode ⟨(v1.set 0 0x21).toList, ops⟩ = .ok (decodeFrame (Frame.bits (v1.set 0 0x21)) ops.env) ∧ ¬ Accepted cfg0 (v1.set 0 0x21)) ∧
    ¬ Accepted cfg0 (v1.set 0 0x12) ∧ ¬ Accepted cfg0 (v1.set 7 0xAE) :=
  ⟨⟨rfl, fun h => absurd h.1.1 (by decide)⟩, fun h => absurd h.1.2 (by decide), fun h => absurd h.2 (by decide)⟩

/-- `AcceptedFrameDispatched` and `LinkPathRefinesFrameClass`. -/
theorem wit_accepted : decode ⟨v1.toList, ops⟩ = .ok (decodeFrame v1.bits ops.env) ∧ Accepted State.reset.cfg v1 ∧
    exec (.codecDecode v1) State.reset = .next { State.reset with result := .decoded (.ok f1) } := ⟨rfl, v1_accepted, rfl⟩

/-- `FrameClassTransitions`: V12, V1 and V3 over slot 3. -/
theorem wit_frameClasses : (with3 s1slot).rx.slot? 3 = some s1slot ∧
    Accepted (with3 s1slot).cfg ((⟨1, 1, 3, false, false, 1, 120, 77, false, 0xCA⟩ : FrameOperands).bits true false).toFrame ∧
    Accepted (with3 s1slot).cfg ((⟨1, 1, 3, true, false, 5, 300, 80, false, 0xAF⟩ : FrameOperands).bits false true).toFrame ∧
    Accepted (with3 s1slot).cfg ((⟨1, 1, 3, false, false, 6, 4200, 80, false, 0xFF⟩ : FrameOperands).bits false false).toFrame :=
  ⟨by decide, v12_accepted, v1_accepted, v3_accepted⟩

/-- A receiver that meets the invariant with a mailbox registered (`EveryStepKeepsReceiverInvariant`). -/
theorem two_inv : two.rx.Inv two.cfg where
  idle_iff := by decide
  held_idle := by decide
  assembling_first h := absurd h (by decide)
  held_accepted h := absurd h (by decide)
  received_le_sent i m h := by
    rw [two_slots] at h
    split at h
    · cases h; decide
    · split at h
      · cases h; decide
      · cases h
  label_fits i m h := by
    rw [two_slots] at h
    split at h
    · cases h; decide
    · split at h
      · cases h; decide
      · cases h
theorem wit_inv : two.rx.Inv two.cfg ∧ ∃ t, step (two.withFetchWord 64 0x11360005012CA0AF) = .next t := ⟨two_inv, _, rfl⟩

/-- `LinkPathRefinesFrameClass`, end to end on V1. -/
theorem wit_linkPath : two.rx.Inv two.cfg ∧ two.rx.ListeningIdle ∧ Accepted two.cfg v1 ∧
    decode ⟨v1.toList, ops⟩ = .ok (decodeFrame v1.bits ops.env) ∧
    ∃ s1 s2 s3 t, exec (.rxService v1.toList 5) two = .next s1 ∧ exec (.takeMsg true) s1 = .next s2 ∧
      s2.result = .message (some f1) ∧ exec (.regDispatch f1 ops.env) s2 = .next s3 ∧
      exec (decodeFrame v1.bits ops.env) two = .next t :=
  ⟨two_inv, ⟨rfl, rfl, rfl⟩, v1_accepted, rfl, _, _, _, _, rfl, rfl, rfl, rfl, rfl⟩

/-- `FrameClassMasks`. -/
theorem wit_masks : (decodeTableWord 64 (0x11360005012CA0AF#64).toNat).isSome = true := by decide

/-- `StepRunsDecodedRequest`: an operation that needs no recomputation, one that does, one that is refused, a request that does not
decode, and a configuration that is none. `SensorNodeStart` and `ReceiverNodeStart` have the first hypothesis alone. -/
theorem wit_step : two.cfg.wf = true ∧
    (decode ⟨[0x43], ops⟩ = .ok .regRecompute ∧ writesSlotDirectly .regRecompute = false) ∧
    (decode ⟨[0x33], ops⟩ = .ok (.mbAck 3) ∧ writesSlotDirectly (.mbAck 3) = true ∧ ∃ t, exec (.mbAck 3) two = .next t) ∧
    exec (.mbAck 3) State.reset = .refused (.slotNotRegistered 3) ∧
    decode ⟨[0x09], ops⟩ = .error (.unassignedCode 0x09) ∧
    ({ State.reset with cfg := { cfg0 with adcMax := 500 } } : State).cfg.wf = false :=
  ⟨by decide, ⟨rfl, rfl⟩, ⟨rfl, rfl, _, rfl⟩, rfl, rfl, by decide⟩

/-- `GlobalAlarmNeverStale`, for an operation that recomputes and for one that `REG_RECOMPUTE` follows. -/
theorem wit_globalAlarm : two.rx.GlobalOk ∧ (∃ t, step { two with pending := [.request ⟨[0x42], ops⟩] } = .next t) ∧
    ∃ t, step { two with pending := [.request ⟨[0x33], ops⟩] } = .next t := ⟨two_globalOk, ⟨_, rfl⟩, _, rfl⟩

/-- `PersonalitiesNeverShareState`, `EventQueueHasNoEffect`, `NothingFaultsConfigurationConstant`: one operation of each kind. -/
theorem wit_operations : exec .retSave two = .next (after .retSave two) ∧ sensorOperation .retSave = true ∧
    exec .regEnum two = .next (after .regEnum two) ∧ sensorOperation .regEnum = false ∧ pureRead .regEnum = true :=
  ⟨rfl, rfl, rfl, rfl, rfl⟩

/-- `StoreFailureOnlyEmits`: an application, a creation, a deletion; dispatches that go to a mailbox (an id that is not 0; accepted
frames of the three classes), and ones that do not. -/
theorem wit_storeFailure :
    exec (.mbApply f1 5 none false) two = .next (after (.mbApply f1 5 none false) two) ∧
    (4#4 ≠ 0#4 ∧ ∃ t, exec (.regLookupOrCreate 4 false) two = .next t ∧ t.result = .created) ∧
    (∃ t, exec (.regDelete 5 false) two = .next t ∧ t.result = .deleted) ∧
    (f1.id ≠ 0#4 ∧ f6.id = 0#4) ∧
    Accepted two.cfg ((⟨1, 1, 3, false, false, 1, 120, 77, false, 0xCA⟩ : FrameOperands).bits true false).toFrame ∧
    Accepted two.cfg ((⟨1, 1, 3, true, false, 5, 300, 80, false, 0xAF⟩ : FrameOperands).bits false true).toFrame ∧
    Accepted two.cfg ((⟨1, 1, 3, false, false, 6, 4200, 80, false, 0xFF⟩ : FrameOperands).bits false false).toFrame ∧
    ¬ Accepted two.cfg ((⟨1, 1, 3, false, false, 6, 4200, 80, false, 0xFE⟩ : FrameOperands).bits false false).toFrame :=
  ⟨rfl, ⟨by decide, _, rfl, rfl⟩, ⟨_, rfl, rfl⟩, ⟨by decide, by decide⟩, v12_accepted, v1_accepted, v3_accepted,
    fun h => absurd h.2 (by decide)⟩

/-- `DeadlineIsTrueElapsedTime`: a frame started before the clock's wrap and looked at after it. -/
theorem wit_deadline : 4294967200 ≤ 4294967700 ∧ 4294967700 - 4294967200 < 2 ^ 32 ∧
    (assembling v1 1 4294967200).rx.rxState = .assembling ∧ (assembling v1 1 4294967200).rx.rxT0 = .ofNat 32 4294967200 ∧
    (assembling v1 1 4294967200).cfg.rxTimeoutMs ≤ 4294967700 - 4294967200 := by decide

end Sys2Proof.Tests
end

section
/-! PROOFS. Time across the clock's wrap, the way of a frame from the link to the registry, and the separation of the two
personalities (00_scope.md R3, R4, R44). -/

namespace Sys2Proof.Machine

/-! ### The receive deadline in true time (R44) -/

/-- The clock's wrap cancels in a difference that is itself under 2^32 ms. -/
theorem elapsed_ofNat {a b : Nat} (hab : a ≤ b) (hlt : b - a < 2 ^ 32) :
    elapsed (.ofNat 32 b) (.ofNat 32 a) = b - a := by
  simp only [elapsed_eq, BitVec.toNat_ofNat]
  omega

theorem tick_expired_iff (cfg : Config) (now : Time) (r : Receiver) :
    (r.tick cfg now).2 = true ↔ r.rxState = .assembling ∧ cfg.rxTimeoutMs ≤ elapsed now r.rxT0 := by
  have hdue : (r.tick cfg now).2 = r.deadlinePassed cfg now := by
    unfold Receiver.tick
    split <;> simp_all
  rw [hdue]
  simp only [Receiver.deadlinePassed, durationExpired, Bool.and_eq_true, beq_iff_eq, decide_eq_true_eq]

theorem exec_rxTick (now : Time) (s : State) :
    exec (.rxTick now) s = .next { s with
      rx := (s.rx.tick s.cfg now).1
      result := if (s.rx.tick s.cfg now).2 then .expired else .notExpired } := rfl

/-- Settles O60: a tick's answer is the deadline test, and `elapsed` of the two counts is the true difference. -/
theorem deadlineIsTrueElapsedTime : Obligations.DeadlineIsTrueElapsedTime := by
  intro s a b hab hlt hassembling ht0
  refine ⟨_, exec_rxTick _ s, ?_⟩
  have hexpired : (s.rx.tick s.cfg (.ofNat 32 b)).2 = true ↔ s.cfg.rxTimeoutMs ≤ b - a := by
    rw [tick_expired_iff, ht0, elapsed_ofNat hab hlt, and_iff_right hassembling]
  rw [← hexpired]
  cases (s.rx.tick s.cfg (.ofNat 32 b)).2 <;> simp

/-! ### From the link to the registry (R4, R117, R164) -/

/-- In listening idle no byte of a frame is held (10_state.md R92 item 1). -/
theorem Receiver.ListeningIdle.rxCount_eq_zero {cfg : Config} {r : Receiver} (hidle : r.ListeningIdle) (hinv : r.Inv cfg) :
    r.rxCount = 0 := by
  obtain ⟨_, hstate, _⟩ := hidle
  exact hinv.idle_iff.1 hstate

/-- An accepted frame offered in listening idle is held, and the tick after it finds the receiver idle (R210, R214). -/
theorem exec_rxService_accepted {F : Frame} {s : State} (now : Time) (hidle : s.rx.ListeningIdle) (hF : Accepted s.cfg F) :
    exec (.rxService F.toList now) s = .next { s with
      result := .consumed 8
      rx := { s.rx with
        rxBuf := F, rxT0 := now, rxState := .idle, rxCount := 0, rxArmed := false, rxMsgValid := true } } := by
  obtain ⟨hfirst, hsum⟩ := hF
  simp only [exec, execRxService, feed_frame s.cfg F now s.rx hidle hfirst, if_pos hsum]
  rw [tick_idle _ _ _ rfl]
  rfl

/-- Taking a held message hands out its fields and frees the receiver (R212). -/
theorem exec_takeMsg_held {s : State} (rearm : Bool) (hvalid : s.rx.rxMsgValid = true) :
    exec (.takeMsg rearm) s = .next { s with
      result := .message (some s.rx.rxBuf.fields)
      rx := { s.rx with rxMsgValid := false, rxArmed := s.rx.rxArmed || rearm } } := by
  simp only [exec, execTakeMsg, if_pos hvalid]
  rfl

/-- An accepted frame's class operation is the dispatch of its fields (R145, R148). -/
theorem exec_decodeFrame_accepted {F : Frame} {s : State} (env : DispatchEnv) (hF : Accepted s.cfg F) :
    exec (decodeFrame F.bits env) s = exec (.regDispatch F.fields env) s := by
  rw [exec_decodeFrame, State.frameArrives, (frameRejection_eq_none s.cfg F).2 hF]
  rfl

/-- The registry neither reads nor writes the receiver's buffer and deadline start. -/
theorem dispatch_with_buffer (cfg : Config) (f : Fields) (env : DispatchEnv) (r : Receiver) (buf : Frame) (t0 : Time) :
    ({ r with rxBuf := buf, rxT0 := t0 } : Receiver).dispatch cfg f env =
      ({ (r.dispatch cfg f env).1 with rxBuf := buf, rxT0 := t0 }, (r.dispatch cfg f env).2) := by
  obtain ⟨new, g, hlocal⟩ := dispatch_local cfg f env r
  have hsame := congrArg (fun d => ({ d.1 with rxBuf := buf, rxT0 := t0 } : Receiver)) (hlocal r rfl rfl)
  rw [hlocal { r with rxBuf := buf, rxT0 := t0 } rfl rfl]
  exact Prod.ext hsame.symm rfl

/-- A dispatch leaves the receiver's link registers alone. -/
theorem dispatch_listeningIdle {r : Receiver} (cfg : Config) (f : Fields) (env : DispatchEnv) (hidle : r.ListeningIdle) :
    (r.dispatch cfg f env).1.ListeningIdle := by
  obtain ⟨new, g, hlocal⟩ := dispatch_local cfg f env r
  rw [hlocal r rfl rfl]
  exact hidle

/-- An accepted frame that went through the receiver leaves it as it was, but for the buffer and the deadline's start. -/
theorem exec_rxService_takeMsg {F : Frame} {s s1 s2 : State} {now : Time} (hinv : s.rx.Inv s.cfg)
    (hidle : s.rx.ListeningIdle) (hF : Accepted s.cfg F) (hservice : exec (.rxService F.toList now) s = .next s1)
    (htake : exec (.takeMsg true) s1 = .next s2) :
    s2 = { s with result := .message (some F.fields), rx := { s.rx with rxBuf := F, rxT0 := now } } := by
  rw [exec_rxService_accepted now hidle hF] at hservice
  cases hservice
  rw [exec_takeMsg_held true rfl] at htake
  cases htake
  have hcount := hidle.rxCount_eq_zero hinv
  obtain ⟨harmed, hstate, hvalid⟩ := hidle
  simp only [harmed, hstate, hvalid, hcount, Bool.or_true]

/-- Settles O45: both ways dispatch the same fields, to receivers that differ in the buffer and the deadline's start only. -/
theorem linkPathRefinesFrameClass : Obligations.LinkPathRefinesFrameClass := by
  intro F r i now s s1 s2 s3 t f hinv hidle hF hword hdecode hservice htake hmessage hdispatch hclass
  have hs2 := exec_rxService_takeMsg hinv hidle hF hservice htake
  subst hs2
  cases hmessage
  rw [decode_of_frame hword hdecode, exec_decodeFrame_accepted _ hF] at hclass
  cases hclass
  simp only [exec, execRegDispatch, State.rxAnswer, dispatch_with_buffer] at hdispatch
  cases hdispatch
  exact ⟨rfl, rfl, dispatch_listeningIdle s.cfg F.fields r.operands.env hidle, rfl⟩

/-! ### The two personalities (R3) -/

/-- An answer with its next state, if it has one, replaced. -/
def mapNext (g : State → State) : Answer → Answer
  | .next t => .next (g t)
  | .fault e => .fault e
  | .refused e => .refused e

@[simp] theorem mapNext_next (g : State → State) (t : State) : mapNext g (.next t) = .next (g t) := rfl

/-- What a frame class does neither reads nor writes the sensor. -/
theorem frameArrives_with_tx (F : Frame) (env : DispatchEnv) (s : State) (tx : Sensor) :
    ({ s with tx := tx } : State).frameArrives F env = mapNext (fun t => { t with tx := tx }) (s.frameArrives F env) := by
  simp only [State.frameArrives]
  split <;> rfl

/-- An operation on a slot neither reads nor writes the sensor, when what it does with the slot does not. -/
theorem onSlot_with_tx {i : MailboxId} {k k' : Slot → Answer} {s : State} {tx : Sensor}
    (hk : ∀ m, k' m = mapNext (fun t => { t with tx := tx }) (k m)) :
    ({ s with tx := tx } : State).onSlot i k' = mapNext (fun t => { t with tx := tx }) (s.onSlot i k) := by
  simp only [State.onSlot]
  split
  · rfl
  · exact hk _

/-- With another sensor, an operation that is not the sensor's gives the same answer, with that other sensor in it. -/
theorem exec_with_tx {i : Instr} (hi : sensorOperation i = false) (s : State) (tx : Sensor) :
    exec i { s with tx := tx } = mapNext (fun t => { t with tx := tx }) (exec i s) := by
  cases i with
  | rxByte b now => simp only [exec, execRxByte]; split <;> rfl
  | takeMsg rearm => simp only [exec, execTakeMsg]; split <;> rfl
  | rxArm => simp only [exec, execRxArm]; split <;> rfl
  | mbApply f now wall fails => exact onSlot_with_tx fun _ => rfl
  | mbPendFire k now => exact onSlot_with_tx fun _ => rfl
  | mbHealth k wall => exact onSlot_with_tx fun _ => rfl
  | mbAck k => exact onSlot_with_tx fun _ => rfl
  | mbReliability k => exact onSlot_with_tx fun _ => rfl
  | regLookupOrCreate id fails =>
    simp only [exec, execRegLookupOrCreate]
    split
    · rfl
    · split <;> rfl
  | regDelete id fails => simp only [exec, execRegDelete]; split <;> rfl
  | regAck actor target =>
    cases target with
    | all => rfl
    | one k => simp only [exec, execRegAck]; split <;> rfl
  | frmBoot o door env => exact frameArrives_with_tx _ env s tx
  | frmOpen o env => exact frameArrives_with_tx _ env s tx
  | frmClosed o env => exact frameArrives_with_tx _ env s tx
  | txSend online door now => cases hi
  | txSleep now => cases hi
  | txWakeup now => cases hi
  | battSample raw => cases hi
  | retSave => cases hi
  | _ => rfl

/-- A hold reads the sensor only (42_transmitter.md R238). -/
theorem unlessSettling_with_rx {now : Time} {k k' : Answer} {s : State} {rx : Receiver}
    (hk : k' = mapNext (fun t => { t with rx := rx }) k) :
    ({ s with rx := rx } : State).unlessSettling now k' = mapNext (fun t => { t with rx := rx }) (s.unlessSettling now k) := by
  simp only [State.unlessSettling]
  split
  · rfl
  · exact hk

/-- With another receiver, an operation of the sensor gives the same answer, with that other receiver in it. -/
theorem exec_with_rx {i : Instr} (hi : sensorOperation i = true) (s : State) (rx : Receiver) :
    exec i { s with rx := rx } = mapNext (fun t => { t with rx := rx }) (exec i s) := by
  cases i with
  | txSend online door now => exact unlessSettling_with_rx (by simp only; split <;> rfl)
  | txSleep now => exact unlessSettling_with_rx rfl
  | txWakeup now => exact unlessSettling_with_rx rfl
  | battSample raw => simp only [exec, execBattSample]; split <;> rfl
  | retSave => rfl
  | _ => cases hi

/-- Settles O56: independence of the other node is `exec_with_rx` and `exec_with_tx`; that the other node stays is the same two
lemmas with the other node put back as it was. -/
theorem personalitiesNeverShareState : Obligations.PersonalitiesNeverShareState := by
  constructor
  · intro i s t h
    split
    · rename_i hi
      have hsame := exec_with_rx hi s s.rx
      rw [h, mapNext_next] at hsame
      rw [Host.Outcome.next.inj hsame]
    · rename_i hi
      have hsame := exec_with_tx (Bool.eq_false_iff.2 hi) s s.tx
      rw [h, mapNext_next] at hsame
      rw [Host.Outcome.next.inj hsame]
  · intro i s t rx tx h
    split
    · rename_i hi
      rw [exec_with_rx hi, h, mapNext_next]
    · rename_i hi
      rw [exec_with_tx (Bool.eq_false_iff.2 hi), h, mapNext_next]

end Sys2Proof.Machine
end

section
/-! PROOFS. The whole machine: what every step keeps of the receiver (10_state.md R73, R92), that no state depends on an event queue
(R85), and what one step is (R84, R260, R381). -/

namespace Sys2Proof.Machine

/-! ### The receiver's invariants (R92 items 1 to 4 and 6, R62) -/

/-- R92 items 1 to 4: the invariants of the receiver's link registers. -/
structure Receiver.LinkInv (cfg : Config) (r : Receiver) : Prop where
  idle_iff : r.rxState = .idle ↔ r.rxCount = 0
  held_idle : r.rxMsgValid = true → r.rxArmed = false ∧ r.rxState = .idle
  assembling_first : r.rxState = .assembling → r.rxArmed = true ∧ FirstByteGood cfg r.rxBuf[0]
  held_accepted : r.rxMsgValid = true → Accepted cfg r.rxBuf

/-- R92 item 6 and R62 for one mailbox. -/
structure Slot.Fits (cfg : Config) (m : Slot) : Prop where
  received_le_sent : m.received ≤ m.sent
  label_fits : m.label.length ≤ cfg.labelMax

/-- The invariants are those of the registers and those of each mailbox. -/
theorem inv_iff {cfg : Config} {r : Receiver} :
    r.Inv cfg ↔ r.LinkInv cfg ∧ ∀ j m, r.slot? j = some m → m.Fits cfg := by
  constructor
  · rintro ⟨hidle, hheld, hfirst, hacc, hrec, hlabel⟩
    exact ⟨⟨hidle, hheld, hfirst, hacc⟩, fun j m hm => ⟨hrec j m hm, hlabel j m hm⟩⟩
  · rintro ⟨⟨hidle, hheld, hfirst, hacc⟩, hslots⟩
    exact ⟨hidle, hheld, hfirst, hacc, fun j m hm => (hslots j m hm).received_le_sent,
      fun j m hm => (hslots j m hm).label_fits⟩

/-- A receiver that listens holds no message (item 2). -/
theorem Receiver.LinkInv.not_held_of_armed {cfg : Config} {r : Receiver} (h : r.LinkInv cfg) (harmed : r.rxArmed = true) :
    r.rxMsgValid = false := by
  cases hvalid : r.rxMsgValid with
  | false => rfl
  | true =>
    obtain ⟨hnot, _⟩ := h.held_idle hvalid
    rw [harmed] at hnot
    cases hnot

/-- A receiver in the middle of a frame holds no message (item 2). -/
theorem Receiver.LinkInv.not_held_of_assembling {cfg : Config} {r : Receiver} (h : r.LinkInv cfg)
    (hasm : r.rxState = .assembling) : r.rxMsgValid = false :=
  h.not_held_of_armed (h.assembling_first hasm).1

/-- A receiver in `Idle` that holds no message has the link invariants, whatever else it holds. -/
theorem linkInv_of_idle {cfg : Config} {r : Receiver} (hstate : r.rxState = .idle) (hcount : r.rxCount = 0)
    (hvalid : r.rxMsgValid = false) : r.LinkInv cfg where
  idle_iff := by simp only [hstate, hcount]
  held_idle hv := by rw [hvalid] at hv; cases hv
  assembling_first ha := by rw [hstate] at ha; cases ha
  held_accepted hv := by rw [hvalid] at hv; cases hv

/-- A receiver that listens in the middle of a frame with a good first byte has the link invariants. -/
theorem linkInv_of_assembling {cfg : Config} {r : Receiver} (hstate : r.rxState = .assembling) (hcount : r.rxCount ≠ 0)
    (harmed : r.rxArmed = true) (hvalid : r.rxMsgValid = false) (hfirst : FirstByteGood cfg r.rxBuf[0]) :
    r.LinkInv cfg where
  idle_iff := by simp [hstate, hcount]
  held_idle hv := by rw [hvalid] at hv; cases hv
  assembling_first _ := ⟨harmed, hfirst⟩
  held_accepted hv := by rw [hvalid] at hv; cases hv

/-- A receiver that has stopped listening on an accepted frame has the link invariants. -/
theorem linkInv_of_held {cfg : Config} {r : Receiver} (hstate : r.rxState = .idle) (hcount : r.rxCount = 0)
    (harmed : r.rxArmed = false) (hacc : Accepted cfg r.rxBuf) : r.LinkInv cfg where
  idle_iff := by simp only [hstate, hcount]
  held_idle _ := ⟨harmed, hstate⟩
  assembling_first ha := by rw [hstate] at ha; cases ha
  held_accepted _ := hacc

/-- A byte that starts a frame or is dropped (R203 to R205). -/
theorem takeByte_linkInv_of_idle {cfg : Config} {r : Receiver} (b : Byte) (now : Time) (harmed : r.rxArmed = true)
    (h : r.LinkInv cfg) (hstate : r.rxState = .idle) : (r.takeByte cfg b now).LinkInv cfg := by
  have hvalid := h.not_held_of_armed harmed
  rw [takeByte_idle _ _ _ _ hstate]
  split
  · exact linkInv_of_idle rfl rfl hvalid
  · rename_i hver
    split
    · exact linkInv_of_idle rfl rfl hvalid
    · rename_i haddr
      refine linkInv_of_assembling rfl (show (1 : Fin 8) ≠ 0 by decide) harmed hvalid ?_
      simpa using (firstByteGood_iff cfg b).2 ⟨hver, haddr⟩

/-- A byte that continues a frame: the first byte stays, so a completed frame with a good checksum is accepted (R206, R207). -/
theorem takeByte_linkInv_of_assembling {cfg : Config} {r : Receiver} (b : Byte) (now : Time) (h : r.LinkInv cfg)
    (hstate : r.rxState = .assembling) : (r.takeByte cfg b now).LinkInv cfg := by
  obtain ⟨harmed, hfirst⟩ := h.assembling_first hstate
  have hvalid := h.not_held_of_assembling hstate
  have hcount : r.rxCount ≠ 0 := fun e => by
    have hidle := h.idle_iff.2 e
    rw [hstate] at hidle
    cases hidle
  by_cases hlast : r.rxCount = 7
  · rw [takeByte_last _ _ _ _ hstate hlast]
    split
    · rename_i hsum
      exact linkInv_of_held rfl rfl rfl ⟨by simpa using hfirst, hsum⟩
    · exact linkInv_of_idle rfl rfl hvalid
  · rw [takeByte_middle _ _ _ _ hstate hlast]
    refine linkInv_of_assembling hstate ?_ harmed hvalid ?_
    · simp only; omega
    · have : r.rxCount.val ≠ 0 := fun e => hcount (Fin.ext e)
      simpa [Vector.getElem_set, this] using hfirst

/-- Every byte taken keeps the link invariants. -/
theorem takeByte_linkInv {cfg : Config} {r : Receiver} (b : Byte) (now : Time) (harmed : r.rxArmed = true)
    (h : r.LinkInv cfg) : (r.takeByte cfg b now).LinkInv cfg := by
  rcases rxState_cases r with hstate | hstate
  · exact takeByte_linkInv_of_idle b now harmed h hstate
  · exact takeByte_linkInv_of_assembling b now h hstate

theorem tick_linkInv {cfg : Config} {r : Receiver} (now : Time) (h : r.LinkInv cfg) : (r.tick cfg now).1.LinkInv cfg := by
  rcases tick_cases cfg now r with e | ⟨hasm, e⟩
  · rw [e]; exact h
  · rw [e]; exact linkInv_of_idle rfl rfl (h.not_held_of_assembling hasm)

/-- Moving the receiver's registers keeps their invariants. -/
theorem LinkStep.linkInv {cfg : Config} {i : Instr} {r r' : Receiver} (hstep : LinkStep cfg r i r') (h : r.LinkInv cfg) :
    r'.LinkInv cfg := by
  cases hstep with
  | byte b now harmed => exact takeByte_linkInv b now harmed h
  | tick now => exact tick_linkInv now h
  | service bytes now =>
    exact tick_linkInv now (feed_induction cfg now (fun b _ ha hr => takeByte_linkInv b now ha hr) bytes r h)
  | take rearm hvalid =>
    obtain ⟨_, hidle⟩ := h.held_idle hvalid
    exact linkInv_of_idle hidle (h.idle_iff.1 hidle) rfl
  | arm hfree =>
    obtain ⟨hidle, _, hfirst, _⟩ := h
    exact ⟨hidle, fun hv => (by rw [hfree] at hv; cases hv), fun ha => ⟨rfl, (hfirst ha).2⟩,
      fun hv => (by rw [hfree] at hv; cases hv)⟩

/-- A frame counts at least as many sent as received, credited or not (R272). -/
theorem Slot.Fits.afterFrame {cfg : Config} {m : Slot} (h : m.Fits cfg) (f : Fields) (now : Time) (wall : Wall) :
    (m.afterFrame cfg f now wall).Fits cfg := by
  obtain ⟨hrec, hlabel⟩ := h
  refine ⟨?_, hlabel⟩
  simp only [Slot.afterFrame]
  split <;> omega

theorem Slot.Fits.pendFire {cfg : Config} {m : Slot} (h : m.Fits cfg) (now : Time) (k : MailboxId) :
    (m.pendFire cfg now k).1.Fits cfg := by
  unfold Slot.pendFire
  split
  · exact ⟨Nat.le_succ_of_le h.received_le_sent, h.label_fits⟩
  · exact h

theorem Slot.Fits.health {cfg : Config} {m : Slot} (h : m.Fits cfg) (wall : Wall) (k : MailboxId) :
    (m.health cfg wall k).1.Fits cfg := by
  rw [health_eq]
  exact ⟨h.received_le_sent, h.label_fits⟩

theorem fresh_fits (cfg : Config) (t0 : Time) : (Slot.fresh t0).Fits cfg := ⟨Nat.le_refl _, Nat.zero_le _⟩

theorem SlotStep.fits {cfg : Config} {i : Instr} {j : MailboxId} {m m' : Slot} (hstep : SlotStep cfg i j m m')
    (h : m.Fits cfg) : m'.Fits cfg := by
  cases hstep with
  | same => exact h
  | frame f now wall _ => exact h.afterFrame f now wall
  | fire now k _ _ _ => exact h.pendFire now k
  | health wall k _ _ _ => exact h.health wall k
  | ack _ _ _ => exact ⟨h.received_le_sent, h.label_fits⟩

theorem SlotBirth.fits {cfg : Config} {m : Slot} (hbirth : SlotBirth cfg m) : m.Fits cfg := by
  cases hbirth with
  | created d => exact fresh_fits cfg _
  | framed d f now wall => exact (fresh_fits cfg _).afterFrame f now wall
  | loaded d label lastSeen battery hlen => exact ⟨Nat.le_refl _, hlen⟩

/-- The link invariants read five registers only. -/
theorem Receiver.LinkInv.congr {cfg : Config} {r r' : Receiver} (h : r.LinkInv cfg) {sl : Vector (Option Slot) 15}
    {es : List Event} {g : Severity} {d : Nat}
    (e : r' = { r with slots := sl, events := es, globalAlarm := g, draws := d }) : r'.LinkInv cfg := by
  subst e
  obtain ⟨hidle, hheld, hfirst, hacc⟩ := h
  exact ⟨hidle, hheld, hfirst, hacc⟩

/-- Every operation that answers keeps the receiver's invariants. -/
theorem exec_inv {i : Instr} {s t : State} (h : exec i s = .next t) (hinv : s.rx.Inv s.cfg) : t.rx.Inv s.cfg := by
  obtain ⟨hlink, hslots⟩ := inv_iff.1 hinv
  refine inv_iff.2 ⟨?_, fun j m' hm' => ?_⟩
  · rcases exec_receiver h with hstep | hstep
    · exact hstep.linkInv hlink
    · exact hlink.congr hstep.registers
  · rcases exec_slotsStep h j m' hm' with ⟨m, hm, hstep⟩ | ⟨_, hbirth⟩
    · exact hstep.fits (hslots j m hm)
    · exact hbirth.fits

theorem recompute_inv {cfg : Config} {r : Receiver} (h : r.Inv cfg) : r.recompute.Inv cfg := by
  obtain ⟨hlink, hslots⟩ := inv_iff.1 h
  exact inv_iff.2 ⟨hlink.congr rfl, hslots⟩

/-- A slot file with no valid slot. -/
theorem slot?_of_empty {r : Receiver} (h : r.slots = Vector.replicate 15 none) (j : MailboxId) : r.slot? j = none := by
  unfold Receiver.slot?
  split
  · rfl
  · simp only [h, Vector.getElem_replicate]

/-- A receiver with no mailbox, in `Idle` and holding no message, has the invariants. -/
theorem inv_of_empty_idle {cfg : Config} {r : Receiver} (hslots : r.slots = Vector.replicate 15 none)
    (hstate : r.rxState = .idle) (hcount : r.rxCount = 0) (hvalid : r.rxMsgValid = false) : r.Inv cfg := by
  refine inv_iff.2 ⟨linkInv_of_idle hstate hcount hvalid, fun j m hm => ?_⟩
  rw [slot?_of_empty hslots] at hm
  cases hm

/-- What the environment does besides requests keeps the receiver's invariants. -/
theorem input_inv {s : State} (input : Input) (hinv : s.rx.Inv s.cfg) : (s.input input).rx.Inv (s.input input).cfg := by
  cases input with
  | receiverStart => exact inv_of_empty_idle rfl rfl rfl rfl
  | drainReceiver n =>
    obtain ⟨hlink, hslots⟩ := inv_iff.1 hinv
    exact inv_iff.2 ⟨hlink.congr rfl, hslots⟩
  | request r => exact hinv
  | sensorStart cause => exact hinv
  | drainSensor n => exact hinv
  | carryLink n => exact hinv

/-- Settles O53: an operation keeps the invariants by `exec_inv`, what follows it and every other input by `recompute_inv` and
`input_inv`. -/
theorem everyStepKeepsReceiverInvariant : Obligations.EveryStepKeepsReceiverInvariant := by
  intro s t hinv hstep
  obtain ⟨_, ⟨_, rfl⟩ | ⟨r, rest, i, _, _, hdone⟩ | ⟨input, rest, _, _, rfl⟩⟩ := step_cases hstep
  · exact hinv
  · obtain ⟨u, hu, hend⟩ := completed_next hdone
    have hcfg : u.cfg = s.cfg := by rw [exec_frame hu]
    have huinv : u.rx.Inv u.cfg := by rw [hcfg]; exact exec_inv (s := { s with pending := rest }) hu hinv
    rcases hend with ⟨_, rfl⟩ | ⟨_, rfl⟩
    · exact huinv
    · exact recompute_inv huinv
  · exact input_inv (s := { s with pending := rest }) input hinv

/-! ### The global alarm (R73, R310) -/

/-- The global alarm's meaning reads the slots and the global alarm only. -/
theorem Receiver.GlobalOk.congr {r r' : Receiver} (h : r.GlobalOk) (hslots : r'.slots = r.slots)
    (hglobal : r'.globalAlarm = r.globalAlarm) : r'.GlobalOk := by
  obtain ⟨habove, hattained⟩ := h
  constructor
  · intro j m hm
    rw [slot?_congr hslots] at hm
    rw [hglobal]
    exact habove j m hm
  · simpa only [hglobal, slot?_congr hslots] using hattained

theorem globalOk_of_empty {r : Receiver} (hslots : r.slots = Vector.replicate 15 none) (hglobal : r.globalAlarm = .noAlarm) :
    r.GlobalOk where
  above j m hm := by rw [slot?_of_empty hslots] at hm; cases hm
  attained := .inl hglobal

/-- A dispatch is rejected, or it ends by recomputing (R310, R314). -/
theorem dispatch_globalOk {cfg : Config} {r : Receiver} (f : Fields) (env : DispatchEnv) (h : r.GlobalOk) :
    (r.dispatch cfg f env).1.GlobalOk := by
  unfold Receiver.dispatch
  split
  · exact h.congr rfl rfl
  · split <;> exact recompute_globalOk _

theorem frameArrives_globalOk {F : Frame} {env : DispatchEnv} {s t : State} (hok : s.rx.GlobalOk)
    (h : s.frameArrives F env = .next t) : t.rx.GlobalOk := by
  unfold State.frameArrives at h
  split at h
  · cases h; exact hok.congr rfl rfl
  · cases h; exact dispatch_globalOk _ _ hok

/-- An operation that moves the receiver's registers leaves the global alarm's meaning alone. -/
theorem LinkStep.globalOk {cfg : Config} {i : Instr} {r r' : Receiver} (hstep : LinkStep cfg r i r') (h : r.GlobalOk) :
    r'.GlobalOk := by
  obtain ⟨hslots, hglobal, _⟩ := linkStep_registry hstep
  exact h.congr hslots hglobal

/-- Every operation keeps the global alarm's meaning, but the four that leave the recomputation to whoever issues them (R260). -/
theorem exec_globalOk {i : Instr} {s t : State} (hdirect : writesSlotDirectly i = false) (hok : s.rx.GlobalOk)
    (h : exec i s = .next t) : t.rx.GlobalOk := by
  cases hsensor : sensorOperation i
  case true =>
    have hrx := personalitiesNeverShareState.1 i s t h
    rw [if_pos hsensor] at hrx
    rw [hrx]
    exact hok
  cases i with
  | rxByte b now =>
    simp only [exec, execRxByte] at h
    split at h
    · rename_i harmed; cases h; exact (LinkStep.byte (cfg := s.cfg) b now harmed).globalOk hok
    · cases h; exact hok
  | rxTick now => cases h; exact (LinkStep.tick now).globalOk hok
  | rxService bytes now => cases h; exact (LinkStep.service bytes now).globalOk hok
  | takeMsg rearm =>
    simp only [exec, execTakeMsg] at h
    split at h <;> (cases h; exact hok.congr rfl rfl)
  | rxArm =>
    simp only [exec, execRxArm] at h
    split at h <;> (cases h; exact hok.congr rfl rfl)
  | mbReliability i =>
    obtain ⟨m, _, hk⟩ := onSlot_next h
    cases hk
    exact hok
  | regLookupOrCreate id fails =>
    simp only [exec, execRegLookupOrCreate] at h
    split at h
    · cases h; exact hok.congr rfl rfl
    · split at h
      · cases h; exact hok
      · cases h; exact recompute_globalOk _
  | regDelete id fails =>
    simp only [exec, execRegDelete] at h
    split at h
    · cases h; exact hok
    · cases h; exact recompute_globalOk _
  | regDispatch f env => cases h; exact dispatch_globalOk f env hok
  | regRecompute => cases h; exact recompute_globalOk _
  | regAck actor target =>
    cases target with
    | all => cases h; exact recompute_globalOk _
    | one k =>
      simp only [exec, execRegAck] at h
      split at h
      · cases h; exact hok
      · cases h; exact recompute_globalOk _
  | regRollcall wall => cases h; exact recompute_globalOk _
  | regTimers now => cases h; exact recompute_globalOk _
  | regLoad probe => cases h; exact recompute_globalOk _
  | frmBoot o door env => exact frameArrives_globalOk hok h
  | frmOpen o env => exact frameArrives_globalOk hok h
  | frmClosed o env => exact frameArrives_globalOk hok h
  | mbApply f now wall fails => cases hdirect
  | mbPendFire k now => cases hdirect
  | mbHealth k wall => cases hdirect
  | mbAck k => cases hdirect
  | txSend online door now => cases hsensor
  | txSleep now => cases hsensor
  | txWakeup now => cases hsensor
  | battSample raw => cases hsensor
  | retSave => cases hsensor
  | _ => cases h; exact hok

/-- What the environment does besides requests keeps the global alarm's meaning. -/
theorem input_globalOk {s : State} (input : Input) (hok : s.rx.GlobalOk) : (s.input input).rx.GlobalOk := by
  cases input with
  | receiverStart => exact globalOk_of_empty rfl rfl
  | drainReceiver n => exact hok.congr rfl rfl
  | request r => exact hok
  | sensorStart cause => exact hok
  | drainSensor n => exact hok
  | carryLink n => exact hok

/-- Settles O55: an operation either keeps the global alarm's meaning by itself or is followed by the recomputation. -/
theorem globalAlarmNeverStale : Obligations.GlobalAlarmNeverStale := by
  intro s t hok hstep
  obtain ⟨_, ⟨_, rfl⟩ | ⟨r, rest, i, _, _, hdone⟩ | ⟨input, rest, _, _, rfl⟩⟩ := step_cases hstep
  · exact hok
  · obtain ⟨u, hu, ⟨hdirect, rfl⟩ | ⟨_, rfl⟩⟩ := completed_next hdone
    · exact exec_globalOk (s := { s with pending := rest }) hdirect hok hu
    · exact recompute_globalOk _
  · exact input_globalOk (s := { s with pending := rest }) input hok

/-! ### The event queues (R85, U27) -/

/-- The state with another content of the receiver's event queue. -/
def State.putRxEvents (q : List Event) (s : State) : State := { s with rx := { s.rx with events := q } }

/-- The state with another content of the sensor's event queue. -/
def State.putTxEvents (q : List Event) (s : State) : State := { s with tx := { s.tx with events := q } }

@[simp] theorem State.putRxEvents_cfg (q : List Event) (s : State) : (s.putRxEvents q).cfg = s.cfg := rfl
@[simp] theorem State.putRxEvents_slot? (q : List Event) (s : State) (i : MailboxId) :
    (s.putRxEvents q).rx.slot? i = s.rx.slot? i := rfl

/-- Whatever stands in a queue, `f` at `s` gives one answer and appends the same events to that queue; `put` writes the queue. -/
def AppendsEvents (put : List Event → State → State) (f : State → Answer) (s : State) : Prop :=
  ∃ new, ∀ q, f (put q s) = mapNext (put (q ++ new)) (f s)

/-- An answer that does not depend on the queue and does not write it appends nothing. -/
theorem appendsEvents_none {put : List Event → State → State} {f : State → Answer} {s : State}
    (h : ∀ q, f (put q s) = mapNext (put q) (f s)) : AppendsEvents put f s :=
  ⟨[], fun q => by rw [List.append_nil]; exact h q⟩

/-- A branch on what is not the queue. -/
theorem appendsEvents_ite {put : List Event → State → State} {c : State → Prop} [DecidablePred c] {f g : State → Answer}
    {s : State} (hc : ∀ q, c (put q s) ↔ c s) (hf : AppendsEvents put f s) (hg : AppendsEvents put g s) :
    AppendsEvents put (fun s => if c s then f s else g s) s := by
  by_cases h : c s
  · obtain ⟨new, hnew⟩ := hf
    exact ⟨new, fun q => by simp only [if_pos h, if_pos ((hc q).2 h), hnew q]⟩
  · obtain ⟨new, hnew⟩ := hg
    exact ⟨new, fun q => by simp only [if_neg h, if_neg (mt (hc q).1 h), hnew q]⟩

/-- Given that the answer is a next state: its queue is the old one with the new events after it, also at the queue that stands. -/
theorem AppendsEvents.next {put : List Event → State → State} {f : State → Answer} {s t : State} (get : State → List Event)
    (hget : ∀ q u, get (put q u) = q) (hput : ∀ u, put (get u) u = u) (h : AppendsEvents put f s) (ht : f s = .next t) :
    ∃ new, get t = get s ++ new ∧ ∀ q, f (put q s) = .next (put (q ++ new) t) := by
  obtain ⟨new, hnew⟩ := h
  simp only [ht, mapNext_next] at hnew
  have hsame := hnew (get s)
  rw [hput, ht] at hsame
  have hqueue := congrArg get (Host.Outcome.next.inj hsame)
  rw [hget] at hqueue
  exact ⟨new, hqueue, hnew⟩

/-- An answer that writes the receiver, at another queue. -/
theorem rxAnswer_putRxEvents {s : State} {rx rx' : Receiver} (res : Result) {q q' : List Event}
    (hrx : rx' = { rx with events := q' }) :
    (s.putRxEvents q).rxAnswer rx' res = mapNext (State.putRxEvents q') (s.rxAnswer rx res) := by
  subst hrx; rfl

/-- An operation that writes the receiver: its next receiver appends events, its result does not depend on the queue. -/
theorem rxAnswer_appendsEvents {rx : State → Receiver} {res : State → Result} {s : State} {new : List Event}
    (hrx : ∀ q, rx (s.putRxEvents q) = { rx s with events := q ++ new }) (hres : ∀ q, res (s.putRxEvents q) = res s) :
    AppendsEvents State.putRxEvents (fun s => s.rxAnswer (rx s) (res s)) s :=
  ⟨new, fun q => by simp only [hres]; exact rxAnswer_putRxEvents _ (hrx q)⟩

/-- An operation on a slot: which slot it finds does not depend on the queue. -/
theorem onSlot_appendsEvents {i : MailboxId} {k : State → Slot → Answer} {s : State}
    (hk : ∀ m, AppendsEvents State.putRxEvents (fun s => k s m) s) :
    AppendsEvents State.putRxEvents (fun s => s.onSlot i (k s)) s := by
  cases hm : s.rx.slot? i with
  | none => exact ⟨[], fun q => by simp only [State.onSlot, State.putRxEvents_slot?, hm, mapNext]⟩
  | some m =>
    obtain ⟨new, hnew⟩ := hk m
    exact ⟨new, fun q => by simp only [State.onSlot, State.putRxEvents_slot?, hm, hnew q]⟩

/-- Writing a slot with another event queue. -/
theorem setSlot_with_events (i : MailboxId) (m : Option Slot) (r : Receiver) (q : List Event) :
    ({ r with events := q } : Receiver).setSlot i m = { r.setSlot i m with events := q } := by
  unfold Receiver.setSlot
  split <;> rfl

/-- Applying a frame with another event queue. -/
theorem applyFrame_with_events (cfg : Config) (f : Fields) (now : Time) (wall : Wall) (fails : Bool) (m : Slot) (r : Receiver)
    (q : List Event) :
    ({ r with events := q } : Receiver).applyFrame cfg f now wall fails m =
      { r.applyFrame cfg f now wall fails m with
        events := q ++ (m.frameEvents cfg f ++ persistEvents (.persistWrite f.id m.label wall f.battery) f.id fails) } := by
  unfold Receiver.applyFrame
  rw [setSlot_with_events, ← List.append_assoc]
  rfl

/-- Registering a slot with another event queue. -/
theorem register_with_events (i : MailboxId) (fails : Bool) (r : Receiver) (q : List Event) :
    ({ r with events := q } : Receiver).register i fails =
      { r.register i fails with events := q ++ persistEvents (.persistWrite i [] none battUnknown) i fails } := by
  unfold Receiver.register Receiver.createSlot
  rw [setSlot_with_events]
  rfl

/-- A function of the receiver that gives one receiver and value at any queue, with the same events appended, gives its own. -/
theorem events_of_eq {β : Type} {g : Receiver → Receiver × β} {r x : Receiver} {y : β} {new : List Event}
    (h : ∀ q, g { r with events := q } = ({ x with events := q ++ new }, y)) (q : List Event) :
    g { r with events := q } = ({ (g r).1 with events := q ++ new }, (g r).2) := by
  have hself : g r = ({ x with events := r.events ++ new }, y) := h r.events
  rw [hself]
  exact h q

/-- A sweep with another event queue. -/
theorem sweep_events {β : Type} (f : MailboxId → Slot → Slot × List Event × β) (is : List MailboxId) (r : Receiver) :
    ∃ new, ∀ q, ({ r with events := q } : Receiver).sweep f is =
      ({ (r.sweep f is).1 with events := q ++ new }, (r.sweep f is).2) := by
  obtain ⟨new, hlocal⟩ := sweep_local f is r
  exact ⟨new, events_of_eq (x := { r with slots := (r.sweep f is).1.slots }) fun q => hlocal { r with events := q } rfl⟩

/-- A load with another event queue. -/
theorem loadAll_events (n : Nat) (l : List (MailboxId × ProbeAnswer)) (r : Receiver) :
    ∃ new, ∀ q, ({ r with events := q } : Receiver).loadAll n l =
      ({ (r.loadAll n l).1 with events := q ++ new }, (r.loadAll n l).2) := by
  obtain ⟨new, hlocal⟩ := loadAll_local n l r
  exact ⟨new, events_of_eq (x := { r with slots := (r.loadAll n l).1.slots, draws := (r.loadAll n l).1.draws })
    fun q => hlocal { r with events := q } rfl rfl⟩

/-- A dispatch with another event queue. -/
theorem dispatch_events (cfg : Config) (f : Fields) (env : DispatchEnv) (r : Receiver) :
    ∃ new, ∀ q, ({ r with events := q } : Receiver).dispatch cfg f env =
      ({ (r.dispatch cfg f env).1 with events := q ++ new }, (r.dispatch cfg f env).2) := by
  obtain ⟨new, g, hlocal⟩ := dispatch_local cfg f env r
  exact ⟨new, events_of_eq (x := { r with
      slots := (r.dispatch cfg f env).1.slots
      globalAlarm := g.getD r.globalAlarm
      draws := (r.dispatch cfg f env).1.draws }) fun q => hlocal { r with events := q } rfl rfl⟩

/-- A sweep that ends by recomputing, with a result made of what it returns (R316, R318, R320). -/
theorem sweep_recompute_appendsEvents {β : Type} (f : Config → MailboxId → Slot → Slot × List Event × β)
    (res : State → List (MailboxId × β) → Result) (hres : ∀ q s l, res (s.putRxEvents q) l = res s l) (s : State) :
    AppendsEvents State.putRxEvents (fun s =>
      s.rxAnswer (s.rx.sweep (f s.cfg) allIds).1.recompute (res s (s.rx.sweep (f s.cfg) allIds).2)) s := by
  obtain ⟨new, hnew⟩ := sweep_events (f s.cfg) allIds s.rx
  refine rxAnswer_appendsEvents (new := new) (fun q => ?_) fun q => ?_
  · exact congrArg (fun d => Receiver.recompute d.1) (hnew q)
  · rw [hres]
    exact congrArg (fun d => res s d.2) (hnew q)

theorem dispatch_appendsEvents (f : Fields) (env : DispatchEnv) (s : State) :
    AppendsEvents State.putRxEvents
      (fun s => s.rxAnswer (s.rx.dispatch s.cfg f env).1 (s.rx.dispatch s.cfg f env).2) s := by
  obtain ⟨new, hnew⟩ := dispatch_events s.cfg f env s.rx
  exact rxAnswer_appendsEvents (fun q => congrArg Prod.fst (hnew q)) fun q => congrArg (fun d => d.2) (hnew q)

theorem frameArrives_appendsEvents (F : Frame) (env : DispatchEnv) (s : State) :
    AppendsEvents State.putRxEvents (fun s => s.frameArrives F env) s := by
  cases hreject : frameRejection s.cfg F with
  | some c => exact ⟨[.condition c], fun q => by simp only [State.frameArrives, State.putRxEvents_cfg, hreject]; rfl⟩
  | none =>
    obtain ⟨new, hnew⟩ := dispatch_appendsEvents F.fields env s
    exact ⟨new, fun q => by
      simpa only [State.frameArrives, State.putRxEvents_cfg, hreject] using hnew q⟩

theorem rxService_appendsEvents (bytes : List Byte) (now : Time) (s : State) :
    AppendsEvents State.putRxEvents (exec (.rxService bytes now)) s := by
  obtain ⟨fed, hfed⟩ := feed_events s.cfg now bytes s.rx
  obtain ⟨ticked, hticked⟩ := tick_events s.cfg now (s.rx.feed s.cfg now bytes).1
  refine rxAnswer_appendsEvents (new := fed ++ ticked) (fun q => ?_) fun q => ?_
  · rw [← List.append_assoc]
    exact (congrArg (fun d => (Receiver.tick s.cfg now d.1).1) (hfed q)).trans (congrArg Prod.fst (hticked (q ++ fed)))
  · exact congrArg (fun d => Result.consumed d.2) (hfed q)

/-- Writing a slot, and appending events, with an answer (`MB_PEND_FIRE`, `MB_HEALTH`). -/
theorem setSlot_emitAll_appendsEvents (i : MailboxId) (p : Config → Slot × List Event) (res : Config → Result) (s : State) :
    AppendsEvents State.putRxEvents
      (fun s => s.rxAnswer ((s.rx.setSlot i (some (p s.cfg).1)).emitAll (p s.cfg).2) (res s.cfg)) s :=
  rxAnswer_appendsEvents (new := (p s.cfg).2)
    (fun q => congrArg (Receiver.emitAll (p s.cfg).2) (setSlot_with_events i (some (p s.cfg).1) s.rx q)) fun _ => rfl

/-- `REG_LOOKUP_OR_CREATE` (R312). -/
theorem regLookupOrCreate_appendsEvents (id : MailboxId) (fails : Bool) (s : State) :
    AppendsEvents State.putRxEvents (exec (.regLookupOrCreate id fails)) s := by
  refine appendsEvents_ite (fun _ => Iff.rfl) ⟨[.condition (.invalidId 0#4)], fun _ => rfl⟩ ?_
  cases hm : s.rx.slot? id with
  | some m => exact appendsEvents_none fun q => by simp only [State.putRxEvents_slot?, hm]; rfl
  | none =>
    refine ⟨persistEvents (.persistWrite id [] none battUnknown) id fails, fun q => ?_⟩
    simp only [State.putRxEvents_slot?, hm]
    exact rxAnswer_putRxEvents _ (congrArg Receiver.recompute (register_with_events id fails s.rx q))

/-- `REG_DELETE` (R313). -/
theorem regDelete_appendsEvents (id : MailboxId) (fails : Bool) (s : State) :
    AppendsEvents State.putRxEvents (exec (.regDelete id fails)) s := by
  cases hm : s.rx.slot? id with
  | none => exact appendsEvents_none fun q => by simp only [exec, execRegDelete, State.putRxEvents_slot?, hm]; rfl
  | some m =>
    refine ⟨persistEvents (.persistRemove id) id fails, fun q => ?_⟩
    simp only [exec, execRegDelete, State.putRxEvents_slot?, hm]
    exact rxAnswer_putRxEvents _ (congrArg (fun r => (Receiver.persist (.persistRemove id) id fails r).recompute)
      (setSlot_with_events id none s.rx q))

/-- `REG_ACK` (R316). -/
theorem regAck_appendsEvents (actor : List Byte) (target : AckTarget) (s : State) :
    AppendsEvents State.putRxEvents (exec (.regAck actor target)) s := by
  cases target with
  | all =>
    exact sweep_recompute_appendsEvents (fun _ _ m => (m.acked, [], ())) (fun s _ => .severity s.rx.globalAlarm)
      (fun _ _ _ => rfl) s
  | one i =>
    cases hm : s.rx.slot? i with
    | none => exact appendsEvents_none fun q => by simp only [exec, execRegAck, State.putRxEvents_slot?, hm]; rfl
    | some m =>
      refine appendsEvents_none fun q => ?_
      simp only [exec, execRegAck, State.putRxEvents_slot?, hm]
      exact rxAnswer_putRxEvents _ (congrArg Receiver.recompute (setSlot_with_events i (some m.acked) s.rx q))

/-- With another content of the receiver's queue, an operation that is not the sensor's gives the same answer and appends the same
events. -/
theorem exec_appendsRxEvents {i : Instr} (hi : sensorOperation i = false) (s : State) :
    AppendsEvents State.putRxEvents (exec i) s := by
  cases i with
  | rxByte b now =>
    obtain ⟨new, hnew⟩ := takeByte_events s.cfg b now s.rx
    exact appendsEvents_ite (fun _ => Iff.rfl) (rxAnswer_appendsEvents hnew fun _ => rfl)
      (appendsEvents_none fun _ => rfl)
  | rxTick now =>
    obtain ⟨new, hnew⟩ := tick_events s.cfg now s.rx
    exact rxAnswer_appendsEvents (fun q => congrArg Prod.fst (hnew q))
      fun q => congrArg (fun d => if d.2 then Result.expired else .notExpired) (hnew q)
  | rxService bytes now => exact rxService_appendsEvents bytes now s
  | takeMsg rearm =>
    exact appendsEvents_ite (fun _ => Iff.rfl) (appendsEvents_none fun _ => rfl) (appendsEvents_none fun _ => rfl)
  | rxArm =>
    exact appendsEvents_ite (fun _ => Iff.rfl) (appendsEvents_none fun _ => rfl) (appendsEvents_none fun _ => rfl)
  | mbApply f now wall fails =>
    exact onSlot_appendsEvents fun m =>
      rxAnswer_appendsEvents (applyFrame_with_events s.cfg f now wall fails m s.rx) fun _ => rfl
  | mbPendFire k now =>
    exact onSlot_appendsEvents fun m => setSlot_emitAll_appendsEvents k
      (fun cfg => ((m.pendFire cfg now k).1, (m.pendFire cfg now k).2.1))
      (fun cfg => if (m.pendFire cfg now k).2.2 then .fired else .notDue) s
  | mbHealth k wall =>
    exact onSlot_appendsEvents fun m => setSlot_emitAll_appendsEvents k
      (fun cfg => ((m.health cfg wall k).1, (m.health cfg wall k).2.1)) (fun cfg => .bool (m.health cfg wall k).2.2) s
  | mbAck k =>
    exact onSlot_appendsEvents fun m => appendsEvents_none fun q =>
      rxAnswer_putRxEvents _ (setSlot_with_events k (some m.acked) s.rx q)
  | mbReliability k => exact onSlot_appendsEvents fun m => appendsEvents_none fun _ => rfl
  | regLookupOrCreate id fails => exact regLookupOrCreate_appendsEvents id fails s
  | regDelete id fails => exact regDelete_appendsEvents id fails s
  | regDispatch f env => exact dispatch_appendsEvents f env s
  | regRecompute => exact appendsEvents_none fun _ => rfl
  | regAck actor target => exact regAck_appendsEvents actor target s
  | regRollcall wall =>
    exact sweep_recompute_appendsEvents (fun cfg i m => m.health cfg wall i) (fun _ l => .health l) (fun _ _ _ => rfl) s
  | regTimers now =>
    exact sweep_recompute_appendsEvents (fun cfg i m => m.pendFire cfg now i)
      (fun _ l => .ids ((l.filter fun p => p.2).map fun p => p.1)) (fun _ _ _ => rfl) s
  | regLoad probe =>
    obtain ⟨new, hnew⟩ := loadAll_events s.cfg.labelMax (allIds.zip probe.toList) s.rx
    exact rxAnswer_appendsEvents (fun q => congrArg (fun d => Receiver.recompute d.1) (hnew q))
      fun q => congrArg (fun d => Result.ids d.2) (hnew q)
  | frmBoot o door env => exact frameArrives_appendsEvents _ env s
  | frmOpen o env => exact frameArrives_appendsEvents _ env s
  | frmClosed o env => exact frameArrives_appendsEvents _ env s
  | txSend online door now => cases hi
  | txSleep now => cases hi
  | txWakeup now => cases hi
  | battSample raw => cases hi
  | retSave => cases hi
  | _ => exact appendsEvents_none fun _ => rfl

/-- With another content of the sensor's queue, an operation of the sensor gives the same answer and appends the same events. -/
theorem exec_appendsTxEvents {i : Instr} (hi : sensorOperation i = true) (s : State) :
    AppendsEvents State.putTxEvents (exec i) s := by
  cases i with
  | txSend online door now =>
    exact appendsEvents_ite (fun _ => Iff.rfl) (appendsEvents_none fun _ => rfl)
      (appendsEvents_ite (fun _ => Iff.rfl) (appendsEvents_none fun _ => rfl) (appendsEvents_none fun _ => rfl))
  | txSleep now =>
    exact appendsEvents_ite (fun _ => Iff.rfl) (appendsEvents_none fun _ => rfl) ⟨[.radioPower .sleep], fun _ => rfl⟩
  | txWakeup now =>
    exact appendsEvents_ite (fun _ => Iff.rfl) (appendsEvents_none fun _ => rfl) ⟨[.radioPower .wake], fun _ => rfl⟩
  | battSample raw =>
    exact appendsEvents_ite (fun _ => Iff.rfl) (appendsEvents_none fun _ => rfl) (appendsEvents_none fun _ => rfl)
  | retSave => exact appendsEvents_none fun _ => rfl
  | _ => cases hi

/-- Settles O57: the queue of the operation's own node by `exec_appendsRxEvents` and `exec_appendsTxEvents`, the other node's by the
separation of the two. -/
theorem eventQueueHasNoEffect : Obligations.EventQueueHasNoEffect := by
  intro i s t h
  have hother := personalitiesNeverShareState.1 i s t h
  cases hi : sensorOperation i with
  | true =>
    obtain ⟨new, hnew, hall⟩ := (exec_appendsTxEvents hi s).next (fun u => u.tx.events) (fun _ _ => rfl) (fun _ => rfl) h
    rw [if_pos hi] at hother
    refine ⟨[], new, by rw [hother, List.append_nil], hnew, fun q q' => ?_⟩
    have hboth := exec_with_rx hi (s.putTxEvents q') { s.rx with events := q }
    rw [hall q', mapNext_next] at hboth
    rw [hother, List.append_nil]
    exact hboth
  | false =>
    obtain ⟨new, hnew, hall⟩ := (exec_appendsRxEvents hi s).next (fun u => u.rx.events) (fun _ _ => rfl) (fun _ => rfl) h
    rw [if_neg (by rw [hi]; decide)] at hother
    refine ⟨new, [], hnew, by rw [hother, List.append_nil], fun q q' => ?_⟩
    have hboth := exec_with_tx hi (s.putRxEvents q) { s.tx with events := q' }
    rw [hall q, mapNext_next] at hboth
    rw [hother, List.append_nil]
    exact hboth

/-! ### One step (R84, R260, R384) -/

/-- A step on a request that selects an operation is that operation, executed to its end. -/
theorem step_request {s : State} {r : Request} {rest : List Input} {i : Instr} (hwf : s.cfg.wf = true)
    (hdecode : decode r = .ok i) :
    step { s with pending := .request r :: rest } = completed i (exec i { s with pending := rest }) := by
  rw [step, unlessIllFormed_wf]
  · simp only [hdecode]
  · exact hwf

theorem step_request_error {s : State} {r : Request} {rest : List Input} {e : DecodeReject} (hwf : s.cfg.wf = true)
    (hdecode : decode r = .error e) : step { s with pending := .request r :: rest } = .refused (refusalOf e) := by
  rw [step, unlessIllFormed_wf]
  · simp only [hdecode]
  · exact hwf

theorem step_nothing_pending {s : State} (hwf : s.cfg.wf = true) :
    step { s with pending := [] } = .next { s with pending := [] } := by
  rw [step, unlessIllFormed_wf]
  exact hwf

theorem step_receiverStart {s : State} {rest : List Input} (hwf : s.cfg.wf = true) :
    step { s with pending := .receiverStart :: rest } = .next { s with pending := rest, rx := s.rx.nodeStart } := by
  rw [step, unlessIllFormed_wf]
  · rfl
  · exact hwf

theorem step_illFormed {s : State} (hwf : s.cfg.wf = false) : step s = .refused .illFormedConfiguration :=
  if_neg (by rw [hwf]; decide)

/-- Nothing follows an operation that recomputes for itself, or has nothing to recompute. -/
theorem completed_of_not_direct {i : Instr} (hdirect : writesSlotDirectly i = false) (a : Answer) : completed i a = a := by
  cases a <;> simp [completed, hdirect]

/-- After an operation that writes a slot directly the global alarm is recomputed (R260). -/
theorem completed_of_direct {i : Instr} (hdirect : writesSlotDirectly i = true) (t : State) :
    completed i (.next t) = .next { t with rx := t.rx.recompute } := by
  simp only [completed, if_pos hdirect]

/-- Settles O50: the witness after an `MB_*` operation is its next state with the receiver recomputed. -/
theorem stepRunsDecodedRequest : Obligations.StepRunsDecodedRequest := by
  intro s r rest
  refine ⟨fun hwf => ⟨fun i hdecode => ⟨fun hdirect => ?_, fun t hdirect ht => ?_, fun c hc => ?_⟩,
    fun e hdecode => step_request_error hwf hdecode, step_nothing_pending hwf⟩, step_illFormed⟩
  · rw [step_request hwf hdecode, completed_of_not_direct hdirect]
  · refine ⟨{ t with rx := t.rx.recompute }, t.rx.maxAlarm, rfl, rfl, rfl, ?_⟩
    rw [step_request hwf hdecode, ht, completed_of_direct hdirect]
  · rw [step_request hwf hdecode, hc]
    rfl

/-! ### Node start and reset (R93, R381) -/

/-- Settles O52: the values of `Receiver.nodeStart`, and an empty slot file. -/
theorem receiverNodeStart : Obligations.ReceiverNodeStart := by
  intro rest s hwf
  exact ⟨Config.freeRxBuf s.rx.draws, Config.freeRxT0 s.rx.draws, s.rx.nodeStart, s.rx.draws + 1, step_receiverStart hwf, rfl,
    slot?_of_empty rfl⟩

/-- Settles O54: no mailbox is valid and the receiver is idle with nothing held; CFG0 meets R36 by evaluation. -/
theorem resetHasInvariants : Obligations.ResetHasInvariants :=
  ⟨inv_of_empty_idle rfl rfl rfl rfl, globalOk_of_empty rfl rfl, by decide⟩

end Sys2Proof.Machine
end

section
/-! PROOFS. A held frame (20_memory.md R121, 41_receiver.md R216): the receiver's registers while a message waits to be taken. -/

namespace Sys2Proof.Machine

/-- While a message is held no byte is taken, no deadline runs and arming is refused, so of the operations on the receiver's
registers only `TAKE_MSG` moves them. -/
theorem LinkStep.eq_self_of_held {cfg : Config} {i : Instr} {r r' : Receiver} (hstep : LinkStep cfg r i r')
    (hvalid : r.rxMsgValid = true) (hunarmed : r.rxArmed = false) (hidle : r.rxState = .idle)
    (htake : ∀ rearm, i ≠ .takeMsg rearm) : r' = r := by
  cases hstep with
  | byte b now harmed => exact absurd harmed (by simp [hunarmed])
  | tick now => rw [tick_idle _ _ _ hidle]
  | service bytes now => rw [feed_not_armed _ _ _ _ hunarmed, tick_idle _ _ _ hidle]
  | take rearm _ => exact absurd rfl (htake rearm)
  | arm hfree => exact absurd hvalid (by simp [hfree])

/-- An operation on the slot file leaves the registers a held frame stands in alone. -/
theorem RegistryStep.held_registers {cfg : Config} {i : Instr} {r r' : Receiver} (hstep : RegistryStep cfg i r r') :
    r'.rxBuf = r.rxBuf ∧ r'.rxMsgValid = r.rxMsgValid ∧ r'.rxArmed = r.rxArmed ∧ r'.rxState = r.rxState := by
  rw [hstep.registers]
  exact ⟨rfl, rfl, rfl, rfl⟩

/-- Settles O16: an operation either is one on the registers, which stay while a frame is held, or leaves them alone. -/
theorem heldFrameCannotChange : Obligations.HeldFrameCannotChange := by
  intro i s t hvalid hunarmed hidle htake h
  rcases exec_receiver h with hlink | hregistry
  · rw [hlink.eq_self_of_held hvalid hunarmed hidle htake]
    exact ⟨rfl, hvalid, hunarmed, hidle⟩
  · obtain ⟨hbuf', hvalid', harmed', hstate'⟩ := hregistry.held_registers
    exact ⟨hbuf', hvalid'.trans hvalid, harmed'.trans hunarmed, hstate'.trans hidle⟩

end Sys2Proof.Machine
end

section
/-! PROOFS. Encodings (30_encoding.md R130, R145 to R151): a request and the operation it presents are the same data, a frame
word's class is that of its boot and door bits, and what a frame word does is decided by the acceptance conditions. -/

namespace Sys2Proof.Machine

/-! ### Requests -/

/-- A command byte decodes to the operation its code selects (R151). -/
theorem decode_command {code : Byte} {o : Operands} {i : Instr} (h : decodeCommand code o = some i) :
    decode (commandRequest code o) = .ok i := by
  simp only [decode, commandRequest, h]

@[simp] theorem operands_env (env : DispatchEnv) : env.operands.env = env := rfl

/-- The request made of a frame's bits decodes to the operation of those bits (R130, R145). -/
theorem decode_frameRequest (b : FrameBits) (env : DispatchEnv) :
    decode (frameRequest b env) = .ok (decodeFrame b env) := by
  rw [frameRequest, decode_frame, bits_toFrame, operands_env]

/-- The operation of a frame's bits is presented by those bits: the class puts back the bits the operands leave out (R147). -/
theorem encode_decodeFrame (b : FrameBits) (env : DispatchEnv) :
    encode (decodeFrame b env) = frameRequest b env := by
  rcases b with ⟨ver, raddr, id, _ | _, online, _ | _, rsv1, seq, uptime, battery, rsv2, cksum⟩ <;> rfl

/-- Settles O46: a command code selects its own operation, whose operands are at its ports; a frame class is read back from the
boot and door bits its encoding sets. -/
theorem decodeInvertsEncode : Obligations.DecodeInvertsEncode := by
  intro i
  cases i with
  | frmBoot o door env => exact decode_frameRequest (o.bits true door) env
  | frmOpen o env => exact decode_frameRequest (o.bits false true) env
  | frmClosed o env => exact decode_frameRequest (o.bits false false) env
  | _ => exact decode_command rfl

/-- Settles O47: the bits of the frame are what is encoded again. -/
theorem everyFrameWordReencodes : Obligations.EveryFrameWordReencodes := by
  intro F o
  refine ⟨decodeFrame F.bits o.env, decode_frame F o, ?_⟩
  rw [encode_decodeFrame, frameRequest, toFrame_bits]

/-! ### The class of a frame (R145, R147) -/

theorem decodeFrame_boot {b : FrameBits} (env : DispatchEnv) (hboot : b.boot = true) :
    decodeFrame b env = .frmBoot b.operands b.door env := by
  simp [decodeFrame, frameClass, hboot]

theorem decodeFrame_open {b : FrameBits} (env : DispatchEnv) (hboot : b.boot = false) (hdoor : b.door = true) :
    decodeFrame b env = .frmOpen b.operands env := by
  simp [decodeFrame, frameClass, hboot, hdoor]

theorem decodeFrame_closed {b : FrameBits} (env : DispatchEnv) (hboot : b.boot = false) (hdoor : b.door = false) :
    decodeFrame b env = .frmClosed b.operands env := by
  simp [decodeFrame, frameClass, hboot, hdoor]

/-- The boot and door bits decide the class, and the three classes exclude each other. -/
theorem decodeFrame_class_iff (b : FrameBits) (env : DispatchEnv) :
    ((∃ o door e, decodeFrame b env = .frmBoot o door e) ↔ b.boot = true) ∧
    ((∃ o e, decodeFrame b env = .frmOpen o e) ↔ b.boot = false ∧ b.door = true) ∧
    ((∃ o e, decodeFrame b env = .frmClosed o e) ↔ b.boot = false ∧ b.door = false) := by
  cases hboot : b.boot with
  | true => simp [decodeFrame_boot env hboot]
  | false =>
    cases hdoor : b.door with
    | true => simp [decodeFrame_open env hboot hdoor]
    | false => simp [decodeFrame_closed env hboot hdoor]

/-! ### Words as the operation table numbers them (log 26) -/

theorem decodeTableWord_command (n : Nat) : decodeTableWord 8 n = decodeCommand (.ofNat 8 n) Operands.zero := by
  cases h : decodeCommand (.ofNat 8 n) Operands.zero <;>
    simp [decodeTableWord, tableRequest, decode, h, Except.toOption]

theorem decodeTableWord_frame (w : BitVec 64) :
    decodeTableWord 64 w.toNat = some (decodeFrame (frameOfWord w).bits Operands.zero.env) := by
  simp [decodeTableWord, tableRequest, decode_frame, Except.toOption]

/-- The class bits of a frame word `W`: `boot` is `W[51]` and `door` is `W[49]` (R130, R39). -/
theorem frameOfWord_boot (w : BitVec 64) : (frameOfWord w).bits.boot = w.getLsbD 51 := by
  simp [frameOfWord, Frame.bits]

theorem frameOfWord_door (w : BitVec 64) : (frameOfWord w).bits.door = w.getLsbD 49 := by
  simp [frameOfWord, Frame.bits]

theorem mask_boot_iff (w : BitVec 64) :
    w &&& 0x0008000000000000#64 = 0x0008000000000000#64 ↔ w.getLsbD 51 = true := by
  rw [Laws.mask_boot]
  cases w.getLsbD 51 <;> decide

theorem mask_open_iff (w : BitVec 64) :
    w &&& 0x000A000000000000#64 = 0x0002000000000000#64 ↔ w.getLsbD 51 = false ∧ w.getLsbD 49 = true := by
  rw [Laws.mask_boot_door]
  cases w.getLsbD 51 <;> cases w.getLsbD 49 <;> decide

theorem mask_closed_iff (w : BitVec 64) :
    w &&& 0x000A000000000000#64 = 0x0000000000000000#64 ↔ w.getLsbD 51 = false ∧ w.getLsbD 49 = false := by
  rw [Laws.mask_boot_door]
  cases w.getLsbD 51 <;> cases w.getLsbD 49 <;> decide

/-- Settles O48: each mask with its match asks for the boot and door bits of one class. -/
theorem frameClassMasks : Obligations.FrameClassMasks := by
  intro w i hdecode
  rw [decodeTableWord_frame] at hdecode
  cases hdecode
  rw [mask_boot_iff, mask_open_iff, mask_closed_iff, ← frameOfWord_boot, ← frameOfWord_door]
  exact decodeFrame_class_iff _ _

/-- Settles O49: each frame word by the fields of its eight bytes, each command byte by its code. -/
theorem writtenWordsDecode : Obligations.WrittenWordsDecode := by
  unfold Obligations.WrittenWordsDecode
  simp only [decodeTableWord_command]
  exact ⟨decodeTableWord_frame 0x11360005012CA0AF#64, decodeTableWord_frame 0x1138000100789ACA#64, rfl, rfl, rfl, rfl, rfl, rfl⟩

/-! ### What a frame word does (R148, R155 to R157) -/

/-- A frame that is not accepted breaks a condition, the first one in the order version, address, checksum (60_exceptions.md R354). -/
theorem frameRejection_of_not_accepted {cfg : Config} {F : Frame} (hF : ¬ Accepted cfg F) :
    frameRejection cfg F = some
      (if F[0].toNat / 16 ≠ cfg.protoVersion.toNat then .badVersion F[0]
        else if F[0].toNat % 16 ≠ cfg.ownAddr.toNat ∧ F[0].toNat % 16 ≠ 0 then .badAddress F[0]
        else .badChecksum F) := by
  have hsome : frameRejection cfg F ≠ none := mt (frameRejection_eq_none cfg F).1 hF
  rw [frameRejection_eq] at hsome ⊢
  split_ifs at hsome ⊢
  · rfl
  · rfl
  · rfl
  · exact absurd rfl hsome

/-- Settles O42: the class operation presents the frame's bytes, and the first broken condition is raised once. -/
theorem unacceptedFrameDiscarded : Obligations.UnacceptedFrameDiscarded := by
  intro r i F s hword hdecode hF
  refine ⟨_, ?_, rfl⟩
  rw [decode_of_frame hword hdecode, exec_decodeFrame, State.frameArrives, frameRejection_of_not_accepted hF]
  rfl

/-- The fields a `DECODE` that succeeds returns are the frame's (40_codec.md R172). -/
theorem fields_of_exec_codecDecode {F : Frame} {f : Fields} {s : State}
    (h : exec (.codecDecode F) s = .next { s with result := .decoded (.ok f) }) : f = F.fields := by
  have hresult : decodeResult s.cfg.protoVersion F = .ok f := by
    simpa [exec, execCodecDecode, State.answer] using h
  exact (decodeResult_eq_ok hresult).1

/-- Settles O43: the frame that `DECODE` reads has the fields that are dispatched, and their boot and door bits are its class. -/
theorem acceptedFrameDispatched : Obligations.AcceptedFrameDispatched := by
  intro r i F f s hword hdecode hF hfields
  have hf := fields_of_exec_codecDecode hfields
  have hi := decode_of_frame hword hdecode
  subst hf hi
  have hexec := exec_decodeFrame_accepted r.operands.env hF
  exact ⟨hexec, ⟨_, hexec.trans rfl⟩, decodeFrame_class_iff F.bits r.operands.env⟩

end Sys2Proof.Machine
end

section
/-! PROOFS. MessageCodec (40_codec.md): what each codec operation answers, the bytes and the fields of a frame in numbers (R171,
R172, R179), the two round trips (R181), one field replaced (R180), and what the checksum detects and lets pass (R176, R182). -/

namespace Sys2Proof.Machine

/-! ### What each operation answers (R170) -/

theorem exec_codecEncode (f : Fields) (s : State) :
    exec (.codecEncode f) s = .next { s with result := .frame (encodeFields s.cfg.protoVersion f) } := rfl

theorem exec_codecDecode (F : Frame) (s : State) :
    exec (.codecDecode F) s = .next { s with result := .decoded (decodeResult s.cfg.protoVersion F) } := rfl

theorem exec_checksum (F : Frame) (s : State) :
    exec (.checksum F) s = .next { s with result := .byte (frameChecksum F) } := rfl

theorem exec_checksumOk (F : Frame) (s : State) :
    exec (.checksumOk F) s = .next { s with result := .bool (frameChecksumOk F) } := rfl

theorem exec_versionOk (F : Frame) (s : State) :
    exec (.versionOk F) s = .next { s with result := .bool (frameVersionOk s.cfg.protoVersion F) } := rfl

theorem exec_nextSeq (c : SeqNo) (s : State) :
    exec (.nextSeq c) s = .next { s with result := .seq (seqAfter c) } := rfl

theorem exec_getf (F : Frame) (n : FieldName) (s : State) :
    exec (.getf F n) s = .next { s with result := .value (F.bits.get n) } := rfl

theorem exec_setf (F : Frame) (v : FieldValue) (s : State) :
    exec (.setf F v) s = .next { s with result := .frame (setField F v) } := rfl

/-! ### Bytes and fields in numbers (R171, R172) -/

/-- A byte of two nibbles (30_encoding.md R132, R133). -/
theorem nibbles_toNat (a b : BitVec 4) : (a ++ b).toNat = a.toNat * 16 + b.toNat := by
  revert a b; decide

theorem flagByte_toNat (i : MailboxId) (boot online door rsv : Bool) :
    (flagByte i boot online door rsv).toNat =
      i.toNat * 16 + boot.toNat * 8 + online.toNat * 4 + door.toNat * 2 + rsv.toNat := by
  revert i boot online door rsv; decide

theorem battByte_toNat (b : Battery) (r : Bool) : (b ++ bit r).toNat = b.toNat * 2 + r.toNat := by
  revert b r; decide

theorem highByte_toNat (s : BitVec 16) : (s.extractLsb' 8 8).toNat = s.toNat / 256 := by
  have := s.isLt
  simp only [BitVec.extractLsb'_toNat, Nat.shiftRight_eq_div_pow]; omega

theorem lowByte_toNat (s : BitVec 16) : (s.extractLsb' 0 8).toNat = s.toNat % 256 := by
  simp [BitVec.extractLsb'_toNat]

theorem getLsbD_eq_decide (c : Byte) (k : Nat) : c.getLsbD k = decide (c.toNat / 2 ^ k % 2 = 1) := by
  rw [← BitVec.testBit_toNat, Nat.testBit_eq_decide_div_mod_eq]

theorem getLsbD_zero_eq_decide (c : Byte) : c.getLsbD 0 = decide (c.toNat % 2 = 1) := by
  rw [getLsbD_eq_decide, pow_zero, Nat.div_one]

/-! The flags of a frame in numbers (30_encoding.md R135 to R138, R142), beside `ver_toNat` and the other fields' lemmas. -/

theorem boot_eq_decide (F : Frame) : F.bits.boot = decide (F[1].toNat / 8 % 2 = 1) := getLsbD_eq_decide _ 3

theorem online_eq_decide (F : Frame) : F.bits.online = decide (F[1].toNat / 4 % 2 = 1) := getLsbD_eq_decide _ 2

theorem door_eq_decide (F : Frame) : F.bits.door = decide (F[1].toNat / 2 % 2 = 1) := getLsbD_eq_decide _ 1

theorem rsv1_eq_decide (F : Frame) : F.bits.rsv1 = decide (F[1].toNat % 2 = 1) := getLsbD_zero_eq_decide _

theorem rsv2_eq_decide (F : Frame) : F.bits.rsv2 = decide (F[6].toNat % 2 = 1) := getLsbD_zero_eq_decide _

/-- Settles O1: each byte holds its fields side by side, and the last one is the checksum of the others. -/
theorem encodeWritesFrameFormat : Obligations.EncodeWritesFrameFormat := by
  intro f s
  exact ⟨_, exec_codecEncode f s, nibbles_toNat _ _, flagByte_toNat _ _ _ _ false, highByte_toNat _, lowByte_toNat _,
    highByte_toNat _, lowByte_toNat _, battByte_toNat _ false, rfl⟩

/-- `DECODE`'s two tests in numbers, the version's first (R172). -/
theorem decodeResult_eq (v : BitVec 4) (F : Frame) :
    decodeResult v F =
      if F[0].toNat / 16 ≠ v.toNat then .versionMismatch
      else if frameChecksum F ≠ F[7] then .checksumMismatch
      else .ok F.fields := by
  simp only [decodeResult, frameVersionOk_eq, frameChecksumOk, decide_eq_false_iff_not, beq_eq_false_iff_ne, Ne]

/-- Settles O2: the fields are those the frame's bits spell, each the number its rule gives. -/
theorem decodeReadsFrameFormat : Obligations.DecodeReadsFrameFormat := by
  intro F s
  refine ⟨F.fields, ⟨raddr_toNat F, id_toNat F, boot_eq_decide F, online_eq_decide F, door_eq_decide F,
    seq_toNat F, uptime_toNat F, battery_toNat F⟩, ?_⟩
  rw [exec_codecDecode, decodeResult_eq]; rfl

/-- Settles O4: the checksum and its test are their expressions, the version field is the high nibble of the first byte. -/
theorem checksumAndVersionTests : Obligations.ChecksumAndVersionTests := by
  intro F s
  refine ⟨exec_checksum F s, exec_checksumOk F s, ?_⟩
  rw [exec_versionOk, frameVersionOk_eq]

/-- Settles O7: the three facts about the number that follows are arithmetic on R177's two cases. -/
theorem nextSeqRule : Obligations.NextSeqRule := by
  intro c s
  have hnext := seqAfter_toNat c
  refine ⟨seqAfter c, exec_nextSeq c s, hnext, ?_, ?_⟩ <;> split at hnext <;> omega

/-! ### One field read or replaced (R179, R180) -/

/-- A word is the number it stands for. -/
theorem eq_ofNat_of_toNat_eq {w n : Nat} {x : BitVec w} (h : x.toNat = n) : x = .ofNat w n := by
  rw [← h, BitVec.ofNat_toNat, BitVec.setWidth_eq]

/-- Settles O8: each field of a frame's bits is the number its rule gives, whatever the frame. -/
theorem getfReadsFields : Obligations.GetfReadsFields := by
  intro F s
  simp only [exec_getf, FrameBits.get]
  rw [eq_ofNat_of_toNat_eq (ver_toNat F), eq_ofNat_of_toNat_eq (raddr_toNat F), eq_ofNat_of_toNat_eq (id_toNat F),
    eq_ofNat_of_toNat_eq (seq_toNat F), eq_ofNat_of_toNat_eq (uptime_toNat F), eq_ofNat_of_toNat_eq (battery_toNat F),
    boot_eq_decide, online_eq_decide, door_eq_decide, rsv1_eq_decide, rsv2_eq_decide]
  exact ⟨rfl, rfl, rfl, rfl, rfl, rfl, rfl, rfl, rfl, rfl, rfl, rfl⟩

theorem bits_setField (F : Frame) (v : FieldValue) : (setField F v).bits = F.bits.put v := bits_toFrame _

/-- Settles O9: the fields of the frame written are the old ones with one replaced. -/
theorem setfReplacesOneField : Obligations.SetfReplacesOneField := by
  intro F v s
  refine ⟨setField F v, exec_setf F v s, ?_, fun n hn => ?_⟩
  · rw [exec_getf, bits_setField, get_put_same]
  · rw [exec_getf, exec_getf, bits_setField, get_put_other _ _ _ hn]

/-! ### The two round trips (R181) -/

theorem decodeResult_encodeFields (v : BitVec 4) (f : Fields) : decodeResult v (encodeFields v f) = .ok f := by
  simp [decodeResult, frameVersionOk, encodeFields_ver, encodeFields_checksumOk, encodeFields_fields]

/-- The codec's fields leave out only the version, the reserved bits and the checksum of a frame. -/
theorem fields_bits_eq_iff (F : Frame) :
    F.fields.bits F.bits.ver F[7] = F.bits ↔ F.bits.rsv1 = false ∧ F.bits.rsv2 = false := by
  constructor
  · intro h
    exact ⟨(congrArg FrameBits.rsv1 h).symm, (congrArg FrameBits.rsv2 h).symm⟩
  · rintro ⟨hrsv1, hrsv2⟩
    calc F.fields.bits F.bits.ver F[7] = { F.bits with rsv1 := false, rsv2 := false } := rfl
      _ = { F.bits with rsv1 := F.bits.rsv1, rsv2 := F.bits.rsv2 } := by rw [hrsv1, hrsv2]

/-- The checksum does not read its own byte (30_encoding.md R143). -/
theorem frameChecksum_bits (v : BitVec 4) (f : Fields) (c d : Byte) :
    frameChecksum (f.bits v c).toFrame = frameChecksum (f.bits v d).toFrame := rfl

/-- Encoding the fields of a frame with a right checksum loses only its reserved bits. -/
theorem encodeFields_fields_eq_iff {F : Frame} (hsum : frameChecksum F = F[7]) :
    encodeFields F.bits.ver F.fields = F ↔ F.bits.rsv1 = false ∧ F.bits.rsv2 = false := by
  rw [← fields_bits_eq_iff]
  constructor
  · intro h
    have hbits := encodeFields_bits F.bits.ver F.fields
    rwa [h, hsum, eq_comm] at hbits
  · intro h
    rw [encodeFields, frameChecksum_bits _ _ 0 F[7], h, toFrame_bits, hsum, h, toFrame_bits]

theorem rsv_eq_false_iff (F : Frame) :
    F.bits.rsv1 = false ∧ F.bits.rsv2 = false ↔ F[1].toNat % 2 = 0 ∧ F[6].toNat % 2 = 0 := by
  simp [rsv1_eq_decide, rsv2_eq_decide]

/-- Settles O3: a frame and its fields carry the same bits but for the reserved ones. -/
theorem codecRoundTrip : Obligations.CodecRoundTrip := by
  refine ⟨fun f s => ⟨_, exec_codecEncode f s, ?_, ?_⟩, fun F f s hdecode => ⟨_, exec_codecEncode f s, ?_⟩⟩
  · rw [exec_codecDecode, decodeResult_encodeFields]
  · rw [exec_checksumOk, encodeFields_checksumOk]
  · have hresult : decodeResult s.cfg.protoVersion F = .ok f := by simpa [exec_codecDecode] using hdecode
    obtain ⟨rfl, hver, hxor⟩ := decodeResult_eq_ok hresult
    rw [← hver, encodeFields_fields_eq_iff ((byte_xor_eq_zero _ _).1 hxor), rsv_eq_false_iff]

/-! ### What the checksum detects and lets pass (R176, R182) -/

/-- `CHECKSUM_OK` asks whether all eight bytes XOR to zero (R174). -/
theorem exec_checksumOk_xorAll (F : Frame) (s : State) :
    exec (.checksumOk F) s = .next { s with result := .bool (decide (xorAll F = 0#8)) } := by
  rw [exec_checksumOk, frameChecksumOk_eq]

theorem exec_checksumOk_true_iff (F : Frame) (s : State) :
    exec (.checksumOk F) s = .next { s with result := .bool true } ↔ xorAll F = 0#8 := by
  simp [exec_checksumOk_xorAll]

theorem one_shiftLeft_ne_zero {b : Nat} (hb : b < 8) : 1#8 <<< b ≠ 0#8 := by
  revert b; decide

/-- Flipping one bit of one byte changes the XOR in that bit (R182). -/
theorem xorAll_set_flip (F : Frame) (k : Fin 8) (d : Byte) : xorAll (F.set k.val (F[k] ^^^ d)) = xorAll F ^^^ d := by
  have hdiff : F[k.val] ^^^ (F[k] ^^^ d) = d := by simp
  rw [xorAll_set, hdiff]

/-- The XOR of the differences is the difference of the XORs (R182). -/
theorem xor_differences (F G : Frame) :
    (F[0] ^^^ G[0]) ^^^ (F[1] ^^^ G[1]) ^^^ (F[2] ^^^ G[2]) ^^^ (F[3] ^^^ G[3]) ^^^ (F[4] ^^^ G[4]) ^^^
      (F[5] ^^^ G[5]) ^^^ (F[6] ^^^ G[6]) ^^^ (F[7] ^^^ G[7]) = xorAll F ^^^ xorAll G := by
  unfold xorAll; ac_rfl

/-- Settles O5: from XOR zero, a flipped bit leaves that bit set, and a change leaves the XOR of its differences. -/
theorem singleBitFlipDetected : Obligations.SingleBitFlipDetected := by
  intro F s hgood
  rw [exec_checksumOk_true_iff] at hgood
  refine ⟨fun k b hb => ?_, fun G => ?_⟩
  · rw [exec_checksumOk_xorAll, xorAll_set_flip, hgood, BitVec.zero_xor, decide_eq_false (one_shiftLeft_ne_zero hb)]
  · rw [exec_checksumOk_xorAll, xor_differences, hgood, BitVec.zero_xor]

/-- The XOR of a frame given byte by byte. -/
theorem xorAll_ofFn (g : Fin 8 → Byte) : xorAll (Vector.ofFn g) = (List.ofFn g).foldl (· ^^^ ·) 0#8 := by
  rw [xorAll_foldl, Vector.toList_ofFn]

theorem ofFn_getElem (F : Frame) : (Vector.ofFn fun i : Fin 8 => F[i]) = F := by
  apply frame_ext; intro i hi; simp

/-- The XOR does not depend on the order of the bytes (R176 (a)). -/
theorem xorAll_permute (F : Frame) (σ : Equiv.Perm (Fin 8)) : xorAll (Vector.ofFn fun i => F[σ i]) = xorAll F := by
  have hperm : (List.ofFn fun i => F[σ i]).Perm (List.ofFn fun i : Fin 8 => F[i]) :=
    σ.ofFn_comp_perm fun i : Fin 8 => F[i]
  calc xorAll (Vector.ofFn fun i => F[σ i])
      = (List.ofFn fun i => F[σ i]).foldl (· ^^^ ·) 0#8 := xorAll_ofFn _
    _ = (List.ofFn fun i : Fin 8 => F[i]).foldl (· ^^^ ·) 0#8 := hperm.foldl_eq _
    _ = xorAll F := by rw [← xorAll_ofFn, ofFn_getElem]

theorem countP_finRange_mem {n : Nat} (T : Finset (Fin n)) : (List.finRange n).countP (· ∈ T) = T.card := by
  rw [List.countP_eq_length_filter, ← List.toFinset_card_of_nodup ((List.nodup_finRange n).filter _)]
  congr 1; ext i; simp

/-- Each bit position sees an even number of flips, so the XOR does not change (R176 (b)). -/
theorem xorAll_flip_even (F : Frame) (T : Finset (Fin 8)) (d : Byte) (heven : T.card % 2 = 0) :
    xorAll (Vector.ofFn fun i => if i ∈ T then F[i] ^^^ d else F[i]) = xorAll F := by
  have hflip := foldl_xor_flip (List.finRange 8) (fun i : Fin 8 => F[i]) (· ∈ T) d
  simp only [countP_finRange_mem, heven, ← List.ofFn_eq_map, decide_eq_true_eq] at hflip
  rw [xorAll_ofFn, hflip, ← xorAll_ofFn, ofFn_getElem]
  simp

/-- Settles O6: neither change moves the XOR of the eight bytes. -/
theorem checksumWeaknessKept : Obligations.ChecksumWeaknessKept := by
  intro F s hgood
  rw [exec_checksumOk_true_iff] at hgood
  refine ⟨fun σ => ?_, fun T b _ heven => ?_⟩
  · rw [exec_checksumOk_true_iff, xorAll_permute, hgood]
  · rw [exec_checksumOk_true_iff, xorAll_flip_even F T _ heven, hgood]

end Sys2Proof.Machine
end

section
/-! PROOFS. FrameReceiver (41_receiver.md): one byte at a time (R203 to R207), the deadline (R209), the bytes of one service and
the tick after them (R210, R214), and the held message (R211 to R213). -/

namespace Sys2Proof.Machine

/-! ### What each operation answers (R203, R210 to R213) -/

/-- A byte offered to a receiver that is not listening stays with the environment (R203). -/
theorem exec_rxByte_unarmed {s : State} (b : Byte) (now : Time) (hunarmed : s.rx.rxArmed = false) :
    exec (.rxByte b now) s = .next { s with result := .notListening } := by
  simp only [exec, execRxByte, hunarmed, Bool.false_eq_true, if_false]; rfl

/-- A byte offered to a receiver that is listening is taken (R203). -/
theorem exec_rxByte_armed {s : State} (b : Byte) (now : Time) (harmed : s.rx.rxArmed = true) :
    exec (.rxByte b now) s = .next { s with result := .accepted, rx := s.rx.takeByte s.cfg b now } := by
  simp only [exec, execRxByte, if_pos harmed]; rfl

theorem exec_rxService (bytes : List Byte) (now : Time) (s : State) :
    exec (.rxService bytes now) s = .next { s with
      result := .consumed (s.rx.feed s.cfg now bytes).2
      rx := ((s.rx.feed s.cfg now bytes).1.tick s.cfg now).1 } := rfl

theorem exec_msgAvail (s : State) : exec .msgAvail s = .next { s with result := .bool s.rx.rxMsgValid } := rfl

theorem exec_takeMsg_empty {s : State} (rearm : Bool) (hempty : s.rx.rxMsgValid = false) :
    exec (.takeMsg rearm) s = .next { s with result := .message none } := by
  simp only [exec, execTakeMsg, hempty, Bool.false_eq_true, if_false]; rfl

theorem exec_rxArm_held {s : State} (hvalid : s.rx.rxMsgValid = true) :
    exec .rxArm s = .next { s with result := .armRefused } := by
  simp only [exec, execRxArm, if_pos hvalid]; rfl

theorem exec_rxArm_free {s : State} (hempty : s.rx.rxMsgValid = false) :
    exec .rxArm s = .next { s with result := .armed, rx := { s.rx with rxArmed := true } } := by
  simp only [exec, execRxArm, hempty, Bool.false_eq_true, if_false]; rfl

/-! ### One byte (R203 to R207) -/

/-- Settles O10: an unarmed receiver declines; an idle one that listens starts a frame and tests the version, then the address. -/
theorem rxByteFirstByte : Obligations.RxByteFirstByte := by
  intro b now s
  refine ⟨exec_rxByte_unarmed b now, fun harmed hidle => ⟨_, exec_rxByte_armed b now harmed, rfl, ?_⟩⟩
  rw [takeByte_idle _ _ _ _ hidle]
  split_ifs <;> rfl

/-- Settles O11: each of the three cases is what `takeByte` does in `Assembling`. -/
theorem rxByteContinuesAndCompletes : Obligations.RxByteContinuesAndCompletes := by
  intro b now s harmed hassembling
  rw [exec_rxByte_armed b now harmed]
  refine ⟨fun hmiddle => ?_, fun hlast hsum => ?_, fun hlast hsum => ?_⟩
  · rw [takeByte_middle _ _ _ _ hassembling hmiddle]
  · rw [takeByte_last _ _ _ _ hassembling hlast, if_pos hsum]
  · rw [takeByte_last _ _ _ _ hassembling hlast, if_neg hsum]
    exact ⟨_, _, rfl⟩

/-! ### The deadline (R209) -/

/-- At or after its deadline a partial frame is dropped, and the tick reports how many bytes of it had come. -/
theorem tick_of_due {cfg : Config} {now : Time} {r : Receiver}
    (hdue : r.rxState = .assembling ∧ cfg.rxTimeoutMs ≤ elapsed now r.rxT0) :
    r.tick cfg now =
      ({ r with rxState := .idle, rxCount := 0, events := r.events ++ [.condition (.rxTimeout r.rxCount.val)] }, true) := by
  rcases tick_cases cfg now r with hsame | ⟨_, hdropped⟩
  · have hexpired := (tick_expired_iff cfg now r).2 hdue
    simp [hsame] at hexpired
  · exact hdropped

/-- Before the deadline, and with no partial frame, a tick changes nothing. -/
theorem tick_of_not_due {cfg : Config} {now : Time} {r : Receiver}
    (hdue : ¬ (r.rxState = .assembling ∧ cfg.rxTimeoutMs ≤ elapsed now r.rxT0)) : r.tick cfg now = (r, false) := by
  rcases tick_cases cfg now r with hsame | ⟨_, hdropped⟩
  · exact hsame
  · exact absurd ((tick_expired_iff cfg now r).1 (by rw [hdropped])) hdue

/-- Settles O12: `elapsed` is the difference modulo 2^32, and the tick drops the frame exactly when it reaches the timeout. -/
theorem rxTickDeadline : Obligations.RxTickDeadline := by
  intro now s
  rw [← elapsed_eq, exec_rxTick]
  by_cases hdue : s.rx.rxState = .assembling ∧ s.cfg.rxTimeoutMs ≤ elapsed now s.rx.rxT0
  · rw [if_pos hdue, tick_of_due hdue]
    exact ⟨_, _, rfl⟩
  · rw [if_neg hdue, tick_of_not_due hdue]
    rfl

/-! ### The bytes of one service (R210, R214) -/

/-- No byte is taken when none is offered or the receiver is not listening. -/
theorem feed_eq_zero {r : Receiver} (cfg : Config) (now : Time) {bytes : List Byte}
    (hnone : bytes = [] ∨ r.rxArmed = false) : r.feed cfg now bytes = (r, 0) := by
  rcases hnone with rfl | hunarmed
  · rfl
  · exact feed_not_armed cfg now bytes r hunarmed

/-- A service touches no mailbox and takes at most the bytes offered (R210). -/
theorem service_registry (cfg : Config) (now : Time) (bytes : List Byte) (r : Receiver) :
    ((r.feed cfg now bytes).1.tick cfg now).1 =
      { ((r.feed cfg now bytes).1.tick cfg now).1 with
        slots := r.slots, globalAlarm := r.globalAlarm, draws := r.draws } := by
  obtain ⟨hslots, hglobal, hdraws, _⟩ := feed_registry cfg now bytes r
  obtain ⟨hslots', hglobal', hdraws'⟩ := tick_registry cfg now (r.feed cfg now bytes).1
  rw [← hslots, ← hglobal, ← hdraws, ← hslots', ← hglobal', ← hdraws']

/-- Settles O13: the loop over the bytes unrolls once for each byte taken, and the tick comes after the last. -/
theorem rxServiceBytesThenTick : Obligations.RxServiceBytesThenTick := by
  refine ⟨fun bytes now s => ?_, fun bytes now s t hnone htick => ?_,
    fun b bytes now s u t n harmed hbyte hservice hn => ?_⟩
  · obtain ⟨_, _, _, hcount⟩ := feed_registry s.cfg now bytes s.rx
    exact ⟨_, _, exec_rxService bytes now s, rfl, hcount,
      congrArg (fun rx => { s with result := .consumed (s.rx.feed s.cfg now bytes).2, rx })
        (service_registry s.cfg now bytes s.rx)⟩
  · rw [exec_rxTick] at htick
    cases htick
    rw [exec_rxService, feed_eq_zero s.cfg now hnone]
  · rw [exec_rxByte_armed b now harmed] at hbyte
    cases hbyte
    rw [exec_rxService] at hservice
    cases hservice
    cases hn
    rw [exec_rxService, feed_cons_armed _ _ _ _ _ harmed]

/-- Eight bytes with a good first byte and a wrong checksum are dropped, and the tick after them finds the receiver idle (R207,
R210). -/
theorem exec_rxService_badChecksum {F : Frame} {s : State} (now : Time) (hidle : s.rx.ListeningIdle)
    (hfirst : FirstByteGood s.cfg F[0]) (hsum : xorAll F ≠ 0#8) :
    exec (.rxService F.toList now) s = .next { s with
      result := .consumed 8
      rx := { s.rx with
        rxBuf := F, rxT0 := now, rxState := .idle, rxCount := 0
        events := s.rx.events ++ [.condition (.badChecksum F)] } } := by
  rw [exec_rxService, feed_frame s.cfg F now s.rx hidle hfirst, if_neg hsum, tick_idle _ _ _ rfl]

/-- Settles O15: with a good first byte the checksum alone decides whether the frame is exposed or dropped. -/
theorem acceptedFrameIsExposed : Obligations.AcceptedFrameIsExposed := by
  intro F now s hidle
  have ⟨_, hstate, _⟩ := hidle
  refine ⟨fun hF => ?_, fun hfirst hF => ?_⟩
  · rw [exec_rxService_accepted now hidle hF, ← hstate]
  · have hsum : xorAll F ≠ 0#8 := fun hzero => hF ⟨hfirst, hzero⟩
    rw [exec_rxService_badChecksum now hidle hfirst hsum, ← hstate]
    exact ⟨_, _, rfl⟩

/-! ### The held message (R211 to R213) -/

/-- `DECODE` reads a frame of the supported version whose checksum is right (R172). -/
theorem decodeResult_ok {v : BitVec 4} {F : Frame} (hversion : F[0].toNat / 16 = v.toNat) (hsum : xorAll F = 0#8) :
    decodeResult v F = .ok F.fields := by
  have hok : frameChecksum F = F[7] := (byte_xor_eq_zero _ _).1 hsum
  rw [decodeResult_eq, if_neg (not_not.2 hversion), if_neg (not_not.2 hok)]

/-- Settles O14: each operation's answers with a message held and with none. -/
theorem takeMsgHandsOutOnce : Obligations.TakeMsgHandsOutOnce := by
  intro rearm s
  refine ⟨exec_msgAvail s, exec_takeMsg_empty rearm, fun hvalid hversion hsum => ⟨s.rx.rxBuf.fields, ?_, ?_⟩,
    exec_rxArm_held, exec_rxArm_free⟩
  · rw [exec_codecDecode, decodeResult_ok hversion hsum]
  · have hrearm : (s.rx.rxArmed || rearm) = if rearm then true else s.rx.rxArmed := by
      cases rearm <;> simp
    rw [exec_takeMsg_held rearm hvalid, hrearm]

end Sys2Proof.Machine
end

section
/-! PROOFS. FrameTransmitter, battery smoothing and retained memory (42_transmitter.md): the settle test and what it holds back
(R238, R239), the three radio operations (R232 to R236), a battery reading (R241 to R244), and the numbers that outlive the sensor's
sleep (R246, R247). -/

namespace Sys2Proof.Machine

/-! ### Settling (R238) -/

theorem settling_eq_true_iff (now : Time) (t : Sensor) :
    t.settling now = true ↔ (now.toNat + 2 ^ 32 - t.txBusyT0.toNat) % 2 ^ 32 < t.txBusyDur := by
  rw [settling_eq, decide_eq_true_eq]

theorem settling_eq_false_iff (now : Time) (t : Sensor) :
    t.settling now = false ↔ ¬ (now.toNat + 2 ^ 32 - t.txBusyT0.toNat) % 2 ^ 32 < t.txBusyDur := by
  rw [settling_eq, decide_eq_false_iff_not]

/-- No settle delay runs after a node start, whatever its start time (R247). -/
theorem settling_of_no_delay {t : Sensor} (now : Time) (hdur : t.txBusyDur = 0) : t.settling now = false := by
  rw [settling_eq_false_iff, hdur]
  exact Nat.not_lt_zero _

theorem unlessSettling_held {s : State} {now : Time} (hsettling : s.tx.settling now = true) (k : Answer) :
    s.unlessSettling now k = .next { s with result := .held } := if_pos hsettling

theorem unlessSettling_free {s : State} {now : Time} (hfree : s.tx.settling now = false) (k : Answer) :
    s.unlessSettling now k = k := if_neg (by rw [hfree]; decide)

/-! ### The radio operations (R232 to R236, R239) -/

theorem exec_txSend_held {s : State} {now : Time} (online door : Bool) (hsettling : s.tx.settling now = true) :
    exec (.txSend online door now) s = .next { s with result := .held } := unlessSettling_held hsettling _

theorem exec_txSend_awake {s : State} {now : Time} (online door : Bool) (hfree : s.tx.settling now = false)
    (hawake : s.tx.radioAwake = some true) :
    exec (.txSend online door now) s = .next { s with
      result := .frame (s.tx.outgoing s.cfg online door now)
      tx := s.tx.send s.cfg online door now } := by
  simp only [exec, execTxSend, unlessSettling_free hfree, if_pos hawake]; rfl

theorem exec_txSend_not_awake {s : State} {now : Time} (online door : Bool) (hfree : s.tx.settling now = false)
    (hawake : s.tx.radioAwake ≠ some true) : exec (.txSend online door now) s = .refused .radioNotAwake := by
  simp only [exec, execTxSend, unlessSettling_free hfree, if_neg hawake]

/-- A send that answers and is not held has sent. -/
theorem exec_txSend_sent {s t : State} {online door : Bool} {now : Time} (h : exec (.txSend online door now) s = .next t)
    (hheld : t.result ≠ .held) : t.tx = s.tx.send s.cfg online door now := by
  cases hsettling : s.tx.settling now with
  | true =>
    rw [exec_txSend_held online door hsettling] at h
    cases h
    exact absurd rfl hheld
  | false =>
    by_cases hawake : s.tx.radioAwake = some true
    · rw [exec_txSend_awake online door hsettling hawake] at h
      cases h
      rfl
    · rw [exec_txSend_not_awake online door hsettling hawake] at h
      cases h

theorem exec_txSleep_held {s : State} {now : Time} (hsettling : s.tx.settling now = true) :
    exec (.txSleep now) s = .next { s with result := .held } := unlessSettling_held hsettling _

theorem exec_txSleep_free {s : State} {now : Time} (hfree : s.tx.settling now = false) :
    exec (.txSleep now) s = .next { s with result := .done, tx := s.tx.power .sleep now s.cfg.sleepSettleMs } :=
  unlessSettling_free hfree _

theorem exec_txWakeup_held {s : State} {now : Time} (hsettling : s.tx.settling now = true) :
    exec (.txWakeup now) s = .next { s with result := .held } := unlessSettling_held hsettling _

theorem exec_txWakeup_free {s : State} {now : Time} (hfree : s.tx.settling now = false) :
    exec (.txWakeup now) s = .next { s with result := .done, tx := s.tx.power .wake now s.cfg.wakeSettleMs } :=
  unlessSettling_free hfree _

/-- The uptime a send stamps is `now` modulo 2^16 (R233). -/
theorem stamp_eq (cfg : Config) (online door : Bool) (now : Time) (t : Sensor) :
    t.stamp cfg online door now = ⟨cfg.txRaddr, cfg.txMboxId, t.bootFlag, online, door, seqAfter t.txSeq,
      .ofNat 16 (now.toNat % 65536), t.txBatt⟩ := by
  have huptime : now.setWidth 16 = .ofNat 16 (now.toNat % 65536) := eq_ofNat_of_toNat_eq (BitVec.toNat_setWidth 16 now)
  rw [Sensor.stamp, huptime]

/-- Settles O17: the number is `seqAfter` of the old one, and the frame is `ENCODE`'s of the stamped fields. -/
theorem txSendStampsAndSends : Obligations.TxSendStampsAndSends := by
  intro online door now s hdelay hawake
  have hnext := seqAfter_toNat s.tx.txSeq
  refine ⟨seqAfter s.tx.txSeq, s.tx.outgoing s.cfg online door now, hnext, ?_, ?_, ?_⟩
  · split at hnext <;> omega
  · rw [exec_codecEncode, ← stamp_eq]
    rfl
  · rw [exec_txSend_awake online door ((settling_eq_false_iff now s.tx).2 hdelay) hawake]
    rfl

/-- Settles O18: the settle test comes first, and a send that passes it meets the test of the radio. -/
theorem radioOperationsHeldOrRefused : Obligations.RadioOperationsHeldOrRefused := by
  intro online door now s
  rw [← settling_eq_true_iff, Bool.not_eq_true]
  exact ⟨fun hsettling => ⟨exec_txSend_held online door hsettling, exec_txSleep_held hsettling, exec_txWakeup_held hsettling⟩,
    exec_txSend_not_awake online door⟩

/-- Settles O19: a power command is emitted and recorded, and its settle delay starts. -/
theorem radioPowerOperations : Obligations.RadioPowerOperations := by
  intro now s hdelay
  have hfree := (settling_eq_false_iff now s.tx).2 hdelay
  exact ⟨exec_txSleep_free hfree, exec_txWakeup_free hfree⟩

/-! ### A battery reading (R241 to R244) -/

theorem exec_battSample_first {s : State} (raw : Int) (hfirst : s.tx.battFirstPending = true) :
    exec (.battSample raw) s = .next { s with result := .done, tx := { s.tx with battFirstPending := false } } := by
  simp only [exec, execBattSample, if_pos hfirst]; rfl

theorem exec_battSample_kept {s : State} (raw : Int) (hkept : s.tx.battFirstPending = false) :
    exec (.battSample raw) s = .next { s with
      result := .done
      tx := { s.tx with txBatt := battBlend s.cfg s.tx.txBatt (battPercent s.cfg raw) } } := by
  simp only [exec, execBattSample, hkept, Bool.false_eq_true, if_false]; rfl

/-- The mapped reading with its clamp as a maximum and a minimum (R241). -/
theorem battPercent_eq {c : Config} (raw : Int) (hadc : c.adcMin < c.adcMax) :
    battPercent c raw = (max c.adcMin (min raw c.adcMax) - c.adcMin) * 100 / (c.adcMax - c.adcMin) := by
  rw [battPercent, clamp_eq _ _ _ hadc.le]

/-- The value a kept reading leaves is a percentage, whatever was stored (R243). -/
theorem battBlend_le (c : Config) (stored : Battery) {pct : Int} (h0 : 0 ≤ pct) (h100 : pct ≤ 100) :
    (battBlend c stored pct).toNat ≤ 100 := by
  have hblend := battBlend_toNat c stored pct h0 h100
  split at hblend <;> omega

/-- A step of one `n`-th of the way to the reading, rounded toward zero, ends between where it began and the reading. -/
theorem add_tdiv_between (stored pct : Int) {n : Nat} (hn : 1 ≤ n) :
    min stored pct ≤ stored + (pct - stored).tdiv n ∧ stored + (pct - stored).tdiv n ≤ max stored pct := by
  have := tdiv_between (pct - stored) n hn
  omega

/-- Between two percentages R243's clamp does nothing, and no percentage is the "unknown" of R19. -/
theorem battBlend_of_percent {c : Config} {stored : Battery} {pct : Int} (hdiv : 1 ≤ c.emaDiv) (h0 : 0 ≤ pct)
    (h100 : pct ≤ 100) (hstored : stored.toNat ≤ 100) :
    ((battBlend c stored pct).toNat : Int) = stored.toNat + (pct - stored.toNat).tdiv c.emaDiv := by
  have hbetween := add_tdiv_between stored.toNat pct hdiv
  rw [battBlend_toNat c stored pct h0 h100, if_neg (by omega)]
  omega

/-- Settles O20: `battPercent` is the mapped reading, `battBlend` the value it leaves. -/
theorem battSampleRule : Obligations.BattSampleRule := by
  rintro raw s hwf pct rfl
  obtain ⟨hadc, -⟩ := adc_of_wf hwf
  obtain ⟨h0, h100⟩ := battPercent_range s.cfg raw hadc
  rw [← battPercent_eq raw hadc]
  exact ⟨exec_battSample_first raw, fun hkept => ⟨_, exec_battSample_kept raw hkept, battBlend_toNat _ _ _ h0 h100⟩⟩

/-- Settles O21: the step toward the reading is a part of the difference, so it stays between two percentages. -/
theorem batteryMovesTowardReading : Obligations.BatteryMovesTowardReading := by
  rintro raw s t hwf hkept h pct rfl
  obtain ⟨hadc, hdiv⟩ := adc_of_wf hwf
  obtain ⟨h0, h100⟩ := battPercent_range s.cfg raw hadc
  rw [exec_battSample_kept raw hkept] at h
  cases h
  rw [← battPercent_eq raw hadc]
  refine ⟨h0, h100, battBlend_le _ _ h0 h100, fun hstored => ?_⟩
  have hblend := battBlend_of_percent hdiv h0 h100 hstored
  refine ⟨hblend, ?_⟩
  rw [hblend]
  exact add_tdiv_between _ _ hdiv

/-! ### Sleep and wake (R246, R247) -/

theorem exec_retSave (s : State) :
    exec .retSave s = .next { s with result := .done, tx := { s.tx with retSeq := s.tx.txSeq, retBatt := s.tx.txBatt } } := rfl

theorem step_sensorStart {s : State} {rest : List Input} (cause : ResetCause) (hwf : s.cfg.wf = true) :
    step { s with pending := .sensorStart cause :: rest } =
      .next { s with pending := rest, tx := s.tx.nodeStart cause } := by
  rw [step, unlessIllFormed_wf]
  · rfl
  · exact hwf

/-- A sensor node start that answers was taken in a configuration that is one (U22), and its next state has the started sensor. -/
theorem step_sensorStart_next {s t : State} {rest : List Input} {cause : ResetCause}
    (h : step { s with pending := .sensorStart cause :: rest } = .next t) : t.tx = s.tx.nodeStart cause := by
  obtain ⟨hwf, -⟩ := step_cases h
  rw [step_sensorStart cause hwf] at h
  cases h
  rfl

@[simp] theorem Sensor.nodeStart_txBusyDur (cause : ResetCause) (t : Sensor) : (t.nodeStart cause).txBusyDur = 0 := rfl

@[simp] theorem Sensor.nodeStart_wake_txSeq (t : Sensor) : (t.nodeStart .wakeFromSleep).txSeq = t.retSeq := rfl

@[simp] theorem Sensor.nodeStart_wake_txBatt (t : Sensor) : (t.nodeStart .wakeFromSleep).txBatt = t.retBatt := rfl

/-- Settles O22: the two copies are the whole effect. -/
theorem retSaveCopies : Obligations.RetSaveCopies := exec_retSave

/-- Settles O23: the two causes' values of `Sensor.nodeStart`, its free values the witnesses. -/
theorem sensorNodeStart : Obligations.SensorNodeStart := by
  intro rest s hwf
  exact ⟨⟨Config.freeTxBuf s.tx.draws, Config.freeTxBusyT0 s.tx.draws, s.tx.draws + 1, step_sensorStart .wakeFromSleep hwf⟩,
    ⟨Config.freeTxBuf s.tx.draws, Config.freeTxBusyT0 s.tx.draws, Config.freeRetSeq s.tx.draws, Config.freeRetBatt s.tx.draws,
      s.tx.draws + 1, step_sensorStart .other hwf⟩⟩

/-- Settles O24: saved, restored, untouched by the wakeup (no delay runs after the start, so it is not held), and advanced by the
send. -/
theorem sequenceSurvivesSleep : Obligations.SequenceSurvivesSleep := by
  intro s s1 s2 s3 s4 rest online door t1 t2 hsave hstart hwakeup hsend hsent
  rw [exec_retSave] at hsave
  cases hsave
  have hstarted := step_sensorStart_next hstart
  have hfree : s2.tx.settling t1 = false := settling_of_no_delay t1 (by rw [hstarted, Sensor.nodeStart_txBusyDur])
  rw [exec_txWakeup_free hfree] at hwakeup
  cases hwakeup
  rw [exec_txSend_sent hsend hsent, Sensor.send_txSeq, Sensor.send_txBatt, Sensor.power_txSeq, Sensor.power_txBatt, hstarted,
    Sensor.nodeStart_wake_txSeq, Sensor.nodeStart_wake_txBatt]
  exact ⟨seqAfter_toNat s.tx.txSeq, rfl⟩

end Sys2Proof.Machine
end

section
/-! PROOFS. MailboxState (43_mailbox_state.md): what each `MB_*` operation answers on a valid slot and that it is refused on any other
(R260), an applied frame in numbers (R262 to R287), the pending timer (R290), the health check (R294), how a mailbox's alarm and its
counters can move (R304, R306), and what a frame of each class makes of a registered mailbox (R281 to R283). -/

namespace Sys2Proof

/-- The codec's fields among a frame's bits; `fields_toFrame` ties them to the fields of the frame made of the bits. -/
def FrameBits.fields (b : FrameBits) : Fields :=
  ⟨b.raddr, b.id, b.boot, b.online, b.door, b.seq, b.uptime, b.battery⟩

/-- The fields that dispatching the frame of these bits dispatches. -/
theorem FrameBits.fields_toFrame (b : FrameBits) : b.toFrame.fields = b.fields := by
  simp only [Frame.fields, bits_toFrame, FrameBits.fields]

end Sys2Proof

namespace Sys2Proof.Machine

/-! ### One valid slot (R260) -/

theorem onSlot_some {s : State} {i : MailboxId} {k : Slot → Answer} {m : Slot} (h : s.rx.slot? i = some m) :
    s.onSlot i k = k m := by
  simp only [State.onSlot, h]

/-- Writing a valid slot replaces it. -/
theorem slot?_setSlot_valid {r : Receiver} {i : MailboxId} {m : Slot} (hm : r.slot? i = some m) (m' : Option Slot) :
    (r.setSlot i m').slot? i = m' := slot?_setSlot_same r (ne_zero_of_slot? hm) m'

theorem exec_mbApply_valid {s : State} {f : Fields} {m : Slot} (now : Time) (wall : Wall) (fails : Bool)
    (hm : s.rx.slot? f.id = some m) :
    exec (.mbApply f now wall fails) s = .next { s with
      result := .applied (m.applyResult s.cfg f), rx := s.rx.applyFrame s.cfg f now wall fails m } := onSlot_some hm

theorem exec_mbPendFire_valid {s : State} {i : MailboxId} {m : Slot} (now : Time) (hm : s.rx.slot? i = some m) :
    exec (.mbPendFire i now) s = .next { s with
      result := if (m.pendFire s.cfg now i).2.2 then .fired else .notDue
      rx := (s.rx.setSlot i (some (m.pendFire s.cfg now i).1)).emitAll (m.pendFire s.cfg now i).2.1 } := onSlot_some hm

theorem exec_mbHealth_valid {s : State} {i : MailboxId} {m : Slot} (wall : Wall) (hm : s.rx.slot? i = some m) :
    exec (.mbHealth i wall) s = .next { s with
      result := .bool (m.health s.cfg wall i).2.2
      rx := (s.rx.setSlot i (some (m.health s.cfg wall i).1)).emitAll (m.health s.cfg wall i).2.1 } := onSlot_some hm

theorem exec_mbAck_valid {s : State} {i : MailboxId} {m : Slot} (hm : s.rx.slot? i = some m) :
    exec (.mbAck i) s = .next { s with result := .severity m.alarm, rx := s.rx.setSlot i (some m.acked) } := onSlot_some hm

theorem exec_mbReliability_valid {s : State} {i : MailboxId} {m : Slot} (hm : s.rx.slot? i = some m) :
    exec (.mbReliability i) s = .next { s with result := .percent m.reliability } := onSlot_some hm

/-- Settles O30: there is no slot 0, and each operation begins by finding its slot. -/
theorem mbOperationsRefusedOnInvalidSlot : Obligations.MbOperationsRefusedOnInvalidSlot := by
  rintro i f now wall fails s hinvalid rfl
  have hnone : s.rx.slot? f.id = none := by
    rcases hinvalid with h0 | hnone
    · rw [h0, slot?_zero]
    · exact hnone
  exact ⟨onSlot_none hnone, onSlot_none hnone, onSlot_none hnone, onSlot_none hnone, onSlot_none hnone⟩

/-! ### Acknowledgement and reliability (R300, R302) -/

/-- Settles O28: the slot written is `Slot.acked`, and nothing but the slot file is. -/
theorem mbAckRule : Obligations.MbAckRule := by
  intro i s
  refine ⟨onSlot_none, fun m hm => ⟨_, exec_mbAck_valid hm, rfl, slot?_setSlot_valid hm _,
    fun j hj => slot?_setSlot_other s.rx hj _, ?_⟩⟩
  simp only
  rw [← setSlot_frame]

theorem reliability_of_nothing_sent {m : Slot} (hsent : m.sent = 0) : m.reliability = none :=
  if_neg (by omega)

theorem reliability_of_sent {m : Slot} (hsent : 0 < m.sent) : m.reliability = some (100 * m.received / m.sent) :=
  if_pos hsent

/-- Settles O29: the percentage is the quotient rounded down. -/
theorem mbReliabilityRule : Obligations.MbReliabilityRule := by
  intro i s
  refine ⟨onSlot_none, fun m hm => ⟨fun hsent => ?_, fun hsent => ?_⟩⟩
  · rw [exec_mbReliability_valid hm, reliability_of_nothing_sent hsent]
  · refine ⟨100 * m.received / m.sent, ?_, Nat.div_mul_le_self _ _, Nat.lt_mul_of_div_lt (Nat.lt_succ_self _) hsent,
      fun hle => ?_⟩
    · rw [exec_mbReliability_valid hm, reliability_of_sent hsent]
    · exact Nat.div_le_of_le_mul (by rw [Nat.mul_comm]; exact Nat.mul_le_mul_right 100 hle)

/-! ### An applied frame (R262 to R287) -/

theorem credited_eq (cfg : Config) (m : Slot) (f : Fields) : m.credited cfg f = !(f.boot || m.desync cfg f) := by
  rw [Slot.credited, Bool.not_or]

/-- The frame's counters (R270 to R274): a boot frame and a desynchronisation credit nothing. -/
theorem afterFrame_counters (cfg : Config) (f : Fields) (now : Time) (wall : Wall) (m : Slot) :
    (m.afterFrame cfg f now wall).sent = (if f.boot || m.desync cfg f then m.sent else m.sent + m.lost f + 1) ∧
    (m.afterFrame cfg f now wall).received = (if f.boot || m.desync cfg f then m.received else m.received + 1) := by
  simp only [Slot.afterFrame, credited_eq]
  cases f.boot || m.desync cfg f <;> exact ⟨rfl, rfl⟩

theorem applyFrame_slot?_valid {r : Receiver} {f : Fields} {m : Slot} (cfg : Config) (now : Time) (wall : Wall)
    (fails : Bool) (hm : r.slot? f.id = some m) :
    (r.applyFrame cfg f now wall fails m).slot? f.id = some (m.afterFrame cfg f now wall) := by
  rw [slot?_applyFrame, slot?_setSlot_valid hm]

theorem applyFrame_slot?_other {f : Fields} {j : MailboxId} (cfg : Config) (now : Time) (wall : Wall) (fails : Bool)
    (m : Slot) (r : Receiver) (hj : j ≠ f.id) : (r.applyFrame cfg f now wall fails m).slot? j = r.slot? j := by
  rw [slot?_applyFrame, slot?_setSlot_other r hj]

/-- A record write's command, then the report of a failed one (R349). -/
theorem persistEvents_eq (e : Event) (id : MailboxId) (fails : Bool) :
    persistEvents e id fails = e :: if fails then [.condition (.persistFail id)] else [] := by
  cases fails <;> rfl

/-- Settles O25: the five numbers of the statement are those of `Slot.applyResult`, and the slot is `Slot.afterFrame`. -/
theorem mbApplyRule : Obligations.MbApplyRule := by
  intro f now wall fails s
  refine ⟨onSlot_none, ?_⟩
  rintro m hm expected lost events desync bounce after rfl hlost hdesync hevents hbounce hafter
  obtain rfl : lost = m.lost f := hlost.trans (lost_eq m f).symm
  obtain rfl : desync = m.desync s.cfg f := hdesync
  obtain rfl : events = lostEvents (m.lost f) f.seq := hevents
  obtain rfl : bounce = isBounce s.cfg f := hbounce.trans (isBounce_eq s.cfg f).symm
  obtain rfl : after = alarmAfterFrame m.alarm (frameClass f.boot f.door) :=
    hafter.trans (alarmAfterFrame_eq m.alarm f.boot f.door).symm
  obtain ⟨hsent, hreceived⟩ := afterFrame_counters s.cfg f now wall m
  refine ⟨_, (m.afterFrame s.cfg f now wall).pendT0, exec_mbApply_valid now wall fails hm, rfl, fun h => if_pos h, ?_,
    fun j hj => applyFrame_slot?_other s.cfg now wall fails m s.rx hj, ?_, ?_⟩
  · rw [applyFrame_slot?_valid s.cfg now wall fails hm, ← hsent, ← hreceived]
    rfl
  · simp only [Receiver.applyFrame_events, Slot.frameEvents, persistEvents_eq, List.append_assoc, List.cons_append,
      List.nil_append]
  · simp only
    rw [← applyFrame_frame]

/-! ### The pending timer and the health check (R290, R294) -/

theorem pendFire_due {cfg : Config} {now : Time} {m : Slot} (i : MailboxId) (hdue : m.pendingDue cfg now = true) :
    m.pendFire cfg now i =
      ({ m with
         seq := seqAfter m.seq, sent := m.sent + 1, pendArmed := false
         alarm := if m.alarm = .noAlarm then .noAlarm else .doorFlipped },
       [.condition (.pendingTimeout i)], true) := if_pos hdue

theorem pendFire_notDue {cfg : Config} {now : Time} {m : Slot} (i : MailboxId) (hdue : ¬ m.pendingDue cfg now = true) :
    m.pendFire cfg now i = (m, [], false) := if_neg hdue

/-- Settles O26: the slot is written and events are appended, by what `pendFire` makes of the slot when it is due and when not. -/
theorem mbPendFireRule : Obligations.MbPendFireRule := by
  intro i now s
  refine ⟨onSlot_none, fun m hm => ⟨_, exec_mbPendFire_valid now hm, fun j hj => slot?_setSlot_other s.rx hj _, ?_, ?_⟩⟩
  · rw [setSlot_emitAll_frame]
  · simp only [slot?_emitAll, slot?_setSlot_valid hm, Receiver.emitAll_events, Receiver.setSlot_events]
    split
    · rename_i hdue
      rw [pendFire_due i ((pendingDue_iff s.cfg now m).2 hdue)]
      exact ⟨rfl, rfl, seqAfter m.seq, m.pendT0, seqAfter_toNat m.seq, rfl⟩
    · rename_i hdue
      rw [pendFire_notDue i (mt (pendingDue_iff s.cfg now m).1 hdue)]
      exact ⟨rfl, List.append_nil _, rfl⟩

/-- Settles O27: the two findings of the statement are `absentNow` and `lowNow`, and `health_eq` says what they do. -/
theorem mbHealthRule : Obligations.MbHealthRule := by
  intro i wall s
  refine ⟨onSlot_none, fun m hm absent low habsent hlow => ?_⟩
  obtain rfl : absent = m.absentNow s.cfg wall := Bool.eq_iff_iff.2 (habsent.trans (absentNow_iff s.cfg wall m).symm)
  obtain rfl : low = m.lowNow s.cfg := Bool.eq_iff_iff.2 (hlow.trans (lowNow_iff s.cfg m).symm)
  refine ⟨_, exec_mbHealth_valid wall hm, ?_, ?_, fun j hj => slot?_setSlot_other s.rx hj _, ?_, ?_⟩
  · rw [health_eq]
  · refine (slot?_setSlot_valid hm _).trans ?_
    rw [health_eq]
  · rw [Receiver.emitAll_events, Receiver.setSlot_events, health_eq, List.append_assoc]
  · rw [setSlot_emitAll_frame]

/-! ### How an alarm and the counters can move (R304, R306) -/

/-- A firing changes an alarm to `DoorFlipped`, from any but `None` (R290 step 4). -/
theorem pendFire_alarm_changed {cfg : Config} {now : Time} {k : MailboxId} {m : Slot}
    (hchanged : (m.pendFire cfg now k).1.alarm ≠ m.alarm) :
    m.alarm ≠ .noAlarm ∧ (m.pendFire cfg now k).1.alarm = .doorFlipped := by
  by_cases hdue : m.pendingDue cfg now = true
  · rw [pendFire_due k hdue] at hchanged ⊢
    by_cases hnone : m.alarm = .noAlarm
    · exact absurd ((if_pos hnone).trans hnone.symm) hchanged
    · exact ⟨hnone, if_neg hnone⟩
  · rw [pendFire_notDue k hdue] at hchanged
    exact absurd rfl hchanged

/-- A health check changes an alarm only by raising it, to `Absent` or to `LowBattery` (R295, R297). -/
theorem health_alarm_changed {cfg : Config} {wall : Wall} {k : MailboxId} {m : Slot}
    (hchanged : (m.health cfg wall k).1.alarm ≠ m.alarm) :
    ((m.health cfg wall k).1.alarm = .absent ∧ m.alarm.code < 3) ∨
    ((m.health cfg wall k).1.alarm = .lowBattery ∧ m.alarm.code < 2) := by
  rw [health_eq] at hchanged ⊢
  by_cases habsent : m.absentNow cfg wall = true ∧ m.alarm.code < 3
  · exact .inl ⟨if_pos habsent, habsent.2⟩
  · simp only [if_neg habsent] at hchanged ⊢
    by_cases hlow : m.lowNow cfg = true ∧ m.alarm.code < 2
    · exact .inr ⟨if_pos hlow, hlow.2⟩
    · exact absurd (if_neg hlow) hchanged

/-- What an operation that answers does to a mailbox that is registered before and after it. -/
theorem exec_slotStep {i : Instr} {s t : State} {j : MailboxId} {m m' : Slot} (h : exec i s = .next t)
    (hm : s.rx.slot? j = some m) (hm' : t.rx.slot? j = some m') : SlotStep s.cfg i j m m' := by
  rcases exec_slotsStep h j m' hm' with ⟨x, hx, hstep⟩ | ⟨hnone, _⟩
  · obtain rfl : x = m := Option.some.inj (hx.symm.trans hm)
    exact hstep
  · rw [hm] at hnone
    cases hnone

/-- Settles O31: an operation changes a registered mailbox in the ways of `SlotStep`, each of which names its stimulus. -/
theorem alarmChangesOnlyByTheTable : Obligations.AlarmChangesOnlyByTheTable := by
  intro i s t j m m' h hm hm' hchanged
  cases exec_slotStep h hm hm' with
  | same => exact absurd rfl hchanged
  | frame f now wall via =>
    rw [via]
    exact ⟨rfl, alarmAfterFrame_eq m.alarm f.boot f.door⟩
  | fire now k target via on =>
    rw [via]
    exact ⟨on, pendFire_alarm_changed hchanged⟩
  | health wall k target via on =>
    rw [via]
    exact ⟨on, health_alarm_changed hchanged⟩
  | ack target via on =>
    rw [via]
    exact ⟨on, rfl⟩

/-- R306 for one mailbox: the label stays, the counters do not decrease, and `received` grows by no more than `sent`. -/
structure Slot.Grows (m m' : Slot) : Prop where
  label : m'.label = m.label
  sent : m.sent ≤ m'.sent
  received : m.received ≤ m'.received
  received_with_sent : m'.received - m.received ≤ m'.sent - m.sent

/-- A change that leaves label, `received` and at least `sent` grows the counters. -/
theorem Slot.Grows.of_received_eq {m m' : Slot} (hlabel : m'.label = m.label) (hsent : m.sent ≤ m'.sent)
    (hreceived : m'.received = m.received) : m.Grows m' := by
  refine ⟨hlabel, hsent, hreceived.ge, ?_⟩
  rw [hreceived, Nat.sub_self]
  exact Nat.zero_le _

/-- A credited frame counts one received and at least one sent (R272). -/
theorem afterFrame_grows (cfg : Config) (f : Fields) (now : Time) (wall : Wall) (m : Slot) :
    m.Grows (m.afterFrame cfg f now wall) := by
  obtain ⟨hsent, hreceived⟩ := afterFrame_counters cfg f now wall m
  cases huncredited : f.boot || m.desync cfg f with
  | true =>
    rw [if_pos huncredited] at hsent hreceived
    exact .of_received_eq rfl hsent.ge hreceived
  | false =>
    rw [if_neg (by rw [huncredited]; decide)] at hsent hreceived
    exact ⟨rfl, by omega, by omega, by omega⟩

/-- A firing counts one sent (R290 step 3). -/
theorem pendFire_grows (cfg : Config) (now : Time) (k : MailboxId) (m : Slot) : m.Grows (m.pendFire cfg now k).1 := by
  by_cases hdue : m.pendingDue cfg now = true
  · rw [pendFire_due k hdue]
    exact .of_received_eq rfl (Nat.le_succ _) rfl
  · rw [pendFire_notDue k hdue]
    exact .of_received_eq rfl (Nat.le_refl _) rfl

theorem SlotStep.grows {cfg : Config} {i : Instr} {j : MailboxId} {m m' : Slot} (hstep : SlotStep cfg i j m m') :
    m.Grows m' := by
  cases hstep with
  | same => exact .of_received_eq rfl (Nat.le_refl _) rfl
  | frame f now wall _ => exact afterFrame_grows cfg f now wall m
  | fire now k _ _ _ => exact pendFire_grows cfg now k m
  | health wall k _ _ _ =>
    rw [health_eq]
    exact .of_received_eq rfl (Nat.le_refl _) rfl
  | ack _ _ _ => exact .of_received_eq rfl (Nat.le_refl _) rfl

/-- Settles O32: a mailbox that was registered before changed by a `SlotStep`. -/
theorem countersOnlyGrow : Obligations.CountersOnlyGrow := by
  intro i s t j m m' h hm hm'
  obtain ⟨hlabel, hsent, hreceived, hwith⟩ := (exec_slotStep h hm hm').grows
  exact ⟨hlabel, hsent, hreceived, hwith⟩

/-! ### A frame of each class (R281 to R283) -/

/-- A dispatch to a registered mailbox is an application and a recomputation (R314). -/
theorem dispatch_registered {cfg : Config} {f : Fields} {r : Receiver} {m : Slot} (env : DispatchEnv)
    (hm : r.slot? f.id = some m) :
    r.dispatch cfg f env =
      ((r.applyFrame cfg f env.now env.wall env.applyFails m).recompute, .dispatched false (m.applyResult cfg f)) := by
  simp only [Receiver.dispatch, if_neg (ne_zero_of_slot? hm), hm]

/-- An accepted frame's class operation on a registered mailbox. -/
theorem exec_decodeFrame_registered {b : FrameBits} {s : State} {m : Slot} (env : DispatchEnv)
    (hF : Accepted s.cfg b.toFrame) (hm : s.rx.slot? b.id = some m) :
    exec (decodeFrame b env) s = .next { s with
      result := .dispatched false (m.applyResult s.cfg b.fields)
      rx := (s.rx.applyFrame s.cfg b.fields env.now env.wall env.applyFails m).recompute } := by
  have hdispatch := exec_decodeFrame_accepted env hF
  rw [bits_toFrame, FrameBits.fields_toFrame] at hdispatch
  rw [hdispatch, exec, execRegDispatch, dispatch_registered env hm]
  rfl

/-- An application followed by the recomputation writes one slot (R262, R310). -/
theorem writesOneSlot_applyFrame (s : State) (f : Fields) (now : Time) (wall : Wall) (fails : Bool) (m : Slot) (res : Result) :
    WritesOneSlot f.id s { s with result := res, rx := (s.rx.applyFrame s.cfg f now wall fails m).recompute } := by
  refine ⟨fun j hj => applyFrame_slot?_other s.cfg now wall fails m s.rx hj, recompute_globalOk _, ?_⟩
  simp only [Receiver.recompute]
  rw [applyFrame_frame]

/-- R281 to R283 for all classes at once: what an accepted frame makes of a registered mailbox, in the frame's bits. -/
theorem exec_decodeFrame_transition {b : FrameBits} {s : State} {m : Slot} (env : DispatchEnv)
    (hF : Accepted s.cfg b.toFrame) (hm : s.rx.slot? b.id = some m) :
    ∃ (t : State) (r : ApplyResult) (p : Time) (n k : Nat),
      exec (decodeFrame b env) s = .next t ∧ t.result = .dispatched false r ∧ (b.online = true → p = env.now) ∧
      m.sent ≤ n ∧ m.received ≤ k ∧ (b.boot = true → n = m.sent ∧ k = m.received) ∧
      t.rx.slot? b.id = some { m with
        boot := b.boot, online := b.online, door := b.door, battery := b.battery, seq := b.seq, lastSeen := env.wall
        sent := n, received := k
        alarm := if b.boot then .booted
          else if b.door then (if m.alarm = .doorOpenNow then .doorLeftOpen else .doorOpenNow) else .doorFlipped
        voiceReported := !b.boot && !b.door && decide (b.uptime.toNat < s.cfg.bounceMs)
        pendArmed := b.online, pendT0 := p } ∧
      WritesOneSlot b.id s t := by
  have hgrows := afterFrame_grows s.cfg b.fields env.now env.wall m
  have hcounters := afterFrame_counters s.cfg b.fields env.now env.wall m
  have halarm := alarmAfterFrame_eq m.alarm b.boot b.door
  have hbounce : isBounce s.cfg b.fields = (!b.boot && !b.door && decide (b.uptime.toNat < s.cfg.bounceMs)) :=
    isBounce_eq s.cfg b.fields
  refine ⟨_, _, (m.afterFrame s.cfg b.fields env.now env.wall).pendT0, _, _,
    exec_decodeFrame_registered env hF hm, rfl, fun h => if_pos h, hgrows.sent, hgrows.received, fun hboot => ?_, ?_,
    writesOneSlot_applyFrame s b.fields _ _ _ m _⟩
  · have huncredited : (b.fields.boot || m.desync s.cfg b.fields) = true := by
      simp only [FrameBits.fields, hboot, Bool.true_or]
    rwa [if_pos huncredited, if_pos huncredited] at hcounters
  · rw [slot?_recompute]
    refine (applyFrame_slot?_valid s.cfg env.now env.wall env.applyFails hm).trans ?_
    rw [← halarm, ← hbounce]
    rfl

/-- Settles O44: the three classes are the three settings of the boot and door bits. -/
theorem frameClassTransitions : Obligations.FrameClassTransitions := by
  intro o env s m hm
  refine ⟨fun door hF => ?_, fun hF => ?_, fun hF => ?_⟩
  · obtain ⟨t, r, p, n, k, hexec, hresult, hp, _, _, hcounters, hslot, hwrites⟩ :=
      exec_decodeFrame_transition (b := o.bits true door) env hF hm
    obtain ⟨rfl, rfl⟩ := hcounters rfl
    exact ⟨t, r, p, hexec, hresult, hp, hslot, hwrites⟩
  · obtain ⟨t, r, p, n, k, hexec, hresult, hp, hn, hk, _, hslot, hwrites⟩ :=
      exec_decodeFrame_transition (b := o.bits false true) env hF hm
    exact ⟨t, r, p, n, k, hexec, hresult, hp, hn, hk, hslot, hwrites⟩
  · obtain ⟨t, r, p, n, k, hexec, hresult, hp, hn, hk, _, hslot, hwrites⟩ :=
      exec_decodeFrame_transition (b := o.bits false false) env hF hm
    exact ⟨t, r, p, n, k, hexec, hresult, hp, hn, hk, hslot, hwrites⟩

end Sys2Proof.Machine
end

section
/-! PROOFS. MailboxRegistry (44_registry.md): what each `REG_*` operation answers, creation and deletion (R312, R313), the dispatch as
its three parts (R314), the global alarm (R315), acknowledgement (R316), the two sweeps over the valid slots (R318, R320), the
enumeration (R322) and the load (R324, R325). -/

namespace Sys2Proof.Machine

/-! ### What each operation answers (R312 to R316) -/

theorem exec_regLookupOrCreate_found {s : State} {id : MailboxId} {m : Slot} (fails : Bool) (hm : s.rx.slot? id = some m) :
    exec (.regLookupOrCreate id fails) s = .next { s with result := .found } := by
  simp only [exec, execRegLookupOrCreate, if_neg (ne_zero_of_slot? hm), hm]
  rfl

theorem exec_regLookupOrCreate_created {s : State} {id : MailboxId} (fails : Bool) (hid : id ≠ 0#4)
    (hfree : s.rx.slot? id = none) :
    exec (.regLookupOrCreate id fails) s = .next { s with
      result := .created, rx := (s.rx.register id fails).recompute } := by
  simp only [exec, execRegLookupOrCreate, if_neg hid, hfree]
  rfl

theorem exec_regDelete_invalid {s : State} {id : MailboxId} (fails : Bool) (hfree : s.rx.slot? id = none) :
    exec (.regDelete id fails) s = .next { s with result := .notFound } := by
  simp only [exec, execRegDelete, hfree]
  rfl

theorem exec_regDelete_valid {s : State} {id : MailboxId} {m : Slot} (fails : Bool) (hm : s.rx.slot? id = some m) :
    exec (.regDelete id fails) s = .next { s with
      result := .deleted, rx := ((s.rx.setSlot id none).persist (.persistRemove id) id fails).recompute } := by
  simp only [exec, execRegDelete, hm]
  rfl

theorem exec_regDispatch (f : Fields) (env : DispatchEnv) (s : State) :
    exec (.regDispatch f env) s = .next { s with
      result := (s.rx.dispatch s.cfg f env).2, rx := (s.rx.dispatch s.cfg f env).1 } := rfl

theorem exec_regRecompute (s : State) :
    exec .regRecompute s = .next { s with result := .severity s.rx.maxAlarm, rx := s.rx.recompute } := rfl

theorem exec_regAck_invalid {s : State} {i : MailboxId} (actor : List Byte) (hfree : s.rx.slot? i = none) :
    exec (.regAck actor (.one i)) s = .next { s with result := .severity .noAlarm } := by
  simp only [exec, execRegAck, hfree]
  rfl

theorem exec_regAck_valid {s : State} {i : MailboxId} {m : Slot} (actor : List Byte) (hm : s.rx.slot? i = some m) :
    exec (.regAck actor (.one i)) s = .next { s with
      result := .severity m.alarm, rx := (s.rx.setSlot i (some m.acked)).recompute } := by
  simp only [exec, execRegAck, hm]
  rfl

theorem exec_regAck_all (actor : List Byte) (s : State) :
    exec (.regAck actor .all) s = .next { s with
      result := .severity s.rx.globalAlarm
      rx := (s.rx.sweep (fun _ m => (m.acked, [], ())) allIds).1.recompute } := rfl

theorem exec_regRollcall (wall : Wall) (s : State) :
    exec (.regRollcall wall) s = .next { s with
      result := .health (s.rx.sweep (fun i m => m.health s.cfg wall i) allIds).2
      rx := (s.rx.sweep (fun i m => m.health s.cfg wall i) allIds).1.recompute } := rfl

theorem exec_regTimers (now : Time) (s : State) :
    exec (.regTimers now) s = .next { s with
      result := .ids (((s.rx.sweep (fun i m => m.pendFire s.cfg now i) allIds).2.filter fun p => p.2).map fun p => p.1)
      rx := (s.rx.sweep (fun i m => m.pendFire s.cfg now i) allIds).1.recompute } := rfl

theorem exec_regEnum (s : State) : exec .regEnum s = .next { s with result := .records s.rx.validSlots } := rfl

theorem exec_regLoad (probe : Vector ProbeAnswer 15) (s : State) :
    exec (.regLoad probe) s = .next { s with
      result := .ids (s.rx.loadAll s.cfg.labelMax (allIds.zip probe.toList)).2
      rx := (s.rx.loadAll s.cfg.labelMax (allIds.zip probe.toList)).1.recompute } := rfl

/-! ### Creation and deletion (R311 to R313) -/

/-- A new slot's alarm is `None`, so a maximum stays the maximum (R312). -/
theorem register_globalOk {r : Receiver} {id : MailboxId} (fails : Bool) (hfree : r.slot? id = none) (hok : r.GlobalOk) :
    (r.register id fails).GlobalOk where
  above j m hm := by
    rw [Receiver.register_globalAlarm]
    rw [slot?_register, slot?_setSlot] at hm
    split at hm
    · cases hm
      exact Nat.zero_le _
    · exact hok.above j m hm
  attained := by
    rw [Receiver.register_globalAlarm]
    refine hok.attained.imp_right fun ⟨i, m, hm, halarm⟩ => ⟨i, m, ?_, halarm⟩
    have hne : i ≠ id := fun e => by
      rw [e, hfree] at hm
      cases hm
    rw [slot?_register, slot?_setSlot_other r hne, hm]

/-- Settles O33: the new slot is `Receiver.freshSlot`, and a creation writes what `register_eq` says. -/
theorem lookupOrCreateRule : Obligations.LookupOrCreateRule := by
  intro id fails s
  refine ⟨?_, fun m hm => exec_regLookupOrCreate_found fails hm, fun hid hfree => ?_⟩
  · rintro rfl
    rfl
  · refine ⟨_, Config.freePendT0 s.rx.draws, exec_regLookupOrCreate_created fails hid hfree, rfl,
      slot?_setSlot_same s.rx hid _, fun j hj => slot?_setSlot_other s.rx hj _, ?_, recompute_globalOk _, fun hok => ?_, ?_⟩
    · rw [Receiver.recompute_events, Receiver.register_events, persistEvents_eq, List.append_cons]
      rfl
    · have hmax := globalAlarm_eq_of_globalOk (register_globalOk fails hfree hok)
      rw [Receiver.register_globalAlarm] at hmax
      exact hmax.symm
    · simp only [Receiver.recompute]
      rw [register_eq rfl rfl]

/-- Settles O34: a deletion writes the one slot and appends the removal's events. -/
theorem deleteRule : Obligations.DeleteRule := by
  intro id fails s
  refine ⟨exec_regDelete_invalid fails, fun m hm => ⟨_, exec_regDelete_valid fails hm, rfl, slot?_setSlot_valid hm _,
    fun j hj => slot?_setSlot_other s.rx hj _, ?_, recompute_globalOk _, ?_⟩⟩
  · rw [Receiver.recompute_events, Receiver.persist_events, Receiver.setSlot_events, persistEvents_eq, List.append_cons]
  · simp only [Receiver.recompute, Receiver.persist]
    rw [setSlot_emitAll_frame]

/-! ### Dispatch (R314) -/

/-- A dispatch to an unknown id registers it, applies the frame to the new slot and recomputes (R314). -/
theorem dispatch_unregistered {cfg : Config} {f : Fields} {r : Receiver} (env : DispatchEnv) (hid : f.id ≠ 0#4)
    (hfree : r.slot? f.id = none) :
    r.dispatch cfg f env =
      (((r.register f.id env.createFails).applyFrame cfg f env.now env.wall env.applyFails r.freshSlot).recompute,
       .dispatched true (r.freshSlot.applyResult cfg f)) := by
  simp only [Receiver.dispatch, if_neg hid, hfree]

/-- Settles O35: a registered id is found, an unknown one created; the recomputation after the creation is lost in the last one. -/
theorem dispatchIsLookupApplyRecompute : Obligations.DispatchIsLookupApplyRecompute := by
  intro f env s
  refine ⟨fun hid => ?_, fun hid => ?_⟩
  · rw [exec_regDispatch, Receiver.dispatch, if_pos hid]
    rfl
  · cases hslot : s.rx.slot? f.id with
    | some m =>
      refine ⟨_, _, _, false, _, exec_regLookupOrCreate_found env.createFails hslot, rfl,
        exec_mbApply_valid env.now env.wall env.applyFails hslot, rfl, exec_regRecompute _, ?_⟩
      rw [exec_regDispatch, dispatch_registered env hslot]
    | none =>
      have hnew : (s.rx.register f.id env.createFails).recompute.slot? f.id = some s.rx.freshSlot :=
        slot?_setSlot_same s.rx hid _
      refine ⟨_, _, _, true, _, exec_regLookupOrCreate_created env.createFails hid hslot, rfl,
        exec_mbApply_valid env.now env.wall env.applyFails hnew, rfl, exec_regRecompute _, ?_⟩
      rw [exec_regDispatch, dispatch_unregistered env hid hslot]
      simp only [recompute_applyFrame_recompute]

/-! ### The global alarm and the acknowledgement (R315 to R317) -/

/-- Settles O36: the maximum is what the recomputation stores and returns, and the only alarm that is one. -/
theorem recomputeIsMaximum : Obligations.RecomputeIsMaximum := by
  intro s
  exact ⟨_, exec_regRecompute s, recompute_globalOk s.rx, fun hok => (globalAlarm_eq_of_globalOk hok).symm⟩

/-- With no alarm in any valid slot the maximum is `None`. -/
theorem maxAlarm_eq_noAlarm {r : Receiver} (h : ∀ i m, r.slot? i = some m → m.alarm = .noAlarm) : r.maxAlarm = .noAlarm := by
  obtain ⟨_, hnone | ⟨i, m, hm, halarm⟩⟩ := maxAlarm_spec r
  · exact hnone
  · rw [← halarm, h i m hm]

/-! ### Sweeps over the valid slots (R316, R318, R320, R322) -/

theorem allIds_ascending : allIds.Pairwise fun a b => a.toNat < b.toNat := by decide

/-- The valid slots come by ascending id (R322). -/
theorem validSlots_ascending (r : Receiver) : r.validSlots.Pairwise fun a b => a.1.toNat < b.1.toNat := by
  refine List.pairwise_filterMap.2 (allIds_ascending.imp fun hlt p hp q hq => ?_)
  obtain ⟨_, _, rfl⟩ := Option.map_eq_some_iff.1 hp
  obtain ⟨_, _, rfl⟩ := Option.map_eq_some_iff.1 hq
  exact hlt

/-- Settles O40: the enumeration is `Receiver.validSlots`. -/
theorem enumerationIsIdOrdered : Obligations.EnumerationIsIdOrdered := fun s =>
  ⟨s.rx.validSlots, exec_regEnum s, validSlots_ascending s.rx, mem_validSlots s.rx⟩

/-- A sweep of all slots answers once for each valid slot, in their order. -/
theorem sweep_all_answers {β : Type} (f : MailboxId → Slot → Slot × List Event × β) (r : Receiver) :
    (r.sweep f allIds).2 = r.validSlots.map fun p => (p.1, (f p.1 p.2).2.2) := by
  rw [(sweep_results f allIds nodup_allIds r).1, Receiver.validSlots, List.map_filterMap]
  simp only [Option.map_map]
  rfl

/-- A sweep of all slots appends what it finds at each valid slot, in their order. -/
theorem sweep_all_events {β : Type} (f : MailboxId → Slot → Slot × List Event × β) (r : Receiver) :
    (r.sweep f allIds).1.events = r.events ++ r.validSlots.flatMap fun p => (f p.1 p.2).2.1 := by
  rw [(sweep_results f allIds nodup_allIds r).2, Receiver.validSlots, List.filterMap_eq_flatMap_toList, List.flatMap_assoc]
  congr 2
  funext i
  cases r.slot? i <;> simp

/-- A sweep of all slots, then the recomputation: slots, events and the global alarm are written (R318, R320). -/
theorem sweep_recompute_frame {β : Type} (f : MailboxId → Slot → Slot × List Event × β) (r : Receiver) :
    (r.sweep f allIds).1.recompute = { r with
      slots := (r.sweep f allIds).1.slots
      events := (r.sweep f allIds).1.events
      globalAlarm := (r.sweep f allIds).1.maxAlarm } := by
  simp only [Receiver.recompute]
  rw [sweep_frame]

/-- A sweep leaves a slot that is not valid alone. -/
theorem sweep_all_slot?_invalid {β : Type} (f : MailboxId → Slot → Slot × List Event × β) {r : Receiver} {i : MailboxId}
    (hfree : r.slot? i = none) : (r.sweep f allIds).1.slot? i = none := by
  rw [sweep_all_slot?, hfree]
  rfl

/-- A sweep does to a valid slot what a visit to that slot alone does. -/
theorem sweep_all_slot?_visit {β : Type} (f : MailboxId → Slot → Slot × List Event × β) {r : Receiver} {i : MailboxId}
    {m : Slot} (hm : r.slot? i = some m) (es : List Event) :
    (r.sweep f allIds).1.slot? i = ((r.setSlot i (some (f i m).1)).emitAll es).slot? i := by
  rw [sweep_all_slot?, hm, slot?_emitAll, slot?_setSlot_valid hm]
  rfl

/-- Settles O37: an acknowledgement of all is a sweep that appends no event and leaves no alarm. -/
theorem acknowledgeRule : Obligations.AcknowledgeRule := by
  intro actor s
  refine ⟨fun i hfree => exec_regAck_invalid actor hfree, fun i m hm => ?_, ?_⟩
  · refine ⟨_, exec_regAck_valid actor hm, rfl, slot?_setSlot_valid hm _, fun j hj => slot?_setSlot_other s.rx hj _,
      recompute_globalOk _, ?_⟩
    simp only [Receiver.recompute]
    rw [setSlot_frame]
  · have hslots := sweep_all_slot? (fun _ m => (m.acked, [], ())) s.rx
    have hevents : (s.rx.sweep (fun _ m => (m.acked, [], ())) allIds).1.events = s.rx.events := by
      simp [sweep_all_events]
    refine ⟨_, exec_regAck_all actor s, rfl, hslots, maxAlarm_eq_noAlarm fun i m hm => ?_, ?_⟩
    · rw [hslots, Option.map_eq_some_iff] at hm
      obtain ⟨_, _, rfl⟩ := hm
      rfl
    · simp only [sweep_recompute_frame, hevents]

/-- The events of the health check of slot `i`, if it is valid. -/
def Receiver.healthEvents (cfg : Config) (wall : Wall) (r : Receiver) (i : MailboxId) : List Event :=
  (r.slot? i).elim [] fun m => (m.health cfg wall i).2.1

theorem healthEvents_valid {r : Receiver} {i : MailboxId} {m : Slot} (cfg : Config) (wall : Wall) (hm : r.slot? i = some m) :
    r.healthEvents cfg wall i = (m.health cfg wall i).2.1 := by
  rw [Receiver.healthEvents, hm]
  rfl

/-- An `MB_HEALTH` that answers `u`, on the slot it found valid (R294). -/
theorem exec_mbHealth_next {i : MailboxId} {wall : Wall} {s u : State} (h : exec (.mbHealth i wall) s = .next u) :
    ∃ m, s.rx.slot? i = some m ∧ u = { s with
      result := .bool (m.health s.cfg wall i).2.2
      rx := (s.rx.setSlot i (some (m.health s.cfg wall i).1)).emitAll (m.health s.cfg wall i).2.1 } := by
  obtain ⟨m, hm, hk⟩ := onSlot_next h
  exact ⟨m, hm, (Host.Outcome.next.inj hk).symm⟩

theorem exec_mbHealth_answers_iff (i : MailboxId) (wall : Wall) (s : State) (ok : Bool) :
    (∃ u, exec (.mbHealth i wall) s = .next u ∧ u.result = .bool ok) ↔
      ∃ m, s.rx.slot? i = some m ∧ (m.health s.cfg wall i).2.2 = ok := by
  constructor
  · rintro ⟨u, hu, hok⟩
    obtain ⟨m, hm, rfl⟩ := exec_mbHealth_next hu
    exact ⟨m, hm, Result.bool.inj hok⟩
  · rintro ⟨m, hm, rfl⟩
    exact ⟨_, exec_mbHealth_valid wall hm, rfl⟩

/-- Settles O38: a rollcall sweeps the health check of `MB_HEALTH` over the valid slots. -/
theorem rollcallChecksEveryMailbox : Obligations.RollcallChecksEveryMailbox := by
  intro wall s
  have hanswers := sweep_all_answers (fun i m => m.health s.cfg wall i) s.rx
  refine ⟨_, _, s.rx.healthEvents s.cfg wall, exec_regRollcall wall s, rfl, fun i hfree => ?_, fun i m u hm hu => ?_, ?_,
    fun i ok => ?_, fun i u hu => ?_, ?_, recompute_globalOk _, ?_⟩
  · exact sweep_all_slot?_invalid _ hfree
  · rw [exec_mbHealth_valid wall hm] at hu
    cases hu
    exact sweep_all_slot?_visit _ hm _
  · rw [hanswers]
    exact List.pairwise_map.2 (validSlots_ascending s.rx)
  · rw [hanswers, exec_mbHealth_answers_iff]
    simp only [List.mem_map, Prod.exists, Prod.mk.injEq, mem_validSlots]
    exact ⟨fun ⟨_, m, hm, hi, hok⟩ => ⟨m, hi ▸ hm, hi ▸ hok⟩, fun ⟨m, hm, hok⟩ => ⟨i, m, hm, rfl, hok⟩⟩
  · obtain ⟨m, hm, rfl⟩ := exec_mbHealth_next hu
    rw [healthEvents_valid s.cfg wall hm, Receiver.emitAll_events, Receiver.setSlot_events]
  · rw [Receiver.recompute_events, sweep_all_events, hanswers, List.map_map, ← List.flatMap_def]
    congr 1
    exact List.flatMap_congr fun p hp => (healthEvents_valid s.cfg wall ((mem_validSlots s.rx p.1 p.2).1 hp)).symm
  · simp only [sweep_recompute_frame]

/-! ### The timers (R320) -/

/-- A firing appends its one condition, and a look at a timer that is not due appends nothing (R290). -/
theorem pendFire_events (cfg : Config) (now : Time) (i : MailboxId) (m : Slot) :
    (m.pendFire cfg now i).2.1 = if (m.pendFire cfg now i).2.2 then [.condition (.pendingTimeout i)] else [] := by
  by_cases hdue : m.pendingDue cfg now = true
  · rw [pendFire_due i hdue]
    rfl
  · rw [pendFire_notDue i hdue]
    rfl

theorem exec_mbPendFire_fired_iff (i : MailboxId) (now : Time) (s : State) :
    (∃ u, exec (.mbPendFire i now) s = .next u ∧ u.result = .fired) ↔
      ∃ m, s.rx.slot? i = some m ∧ (m.pendFire s.cfg now i).2.2 = true := by
  constructor
  · rintro ⟨u, hu, hfired⟩
    obtain ⟨m, hm, hk⟩ := onSlot_next hu
    cases hk
    refine ⟨m, hm, ?_⟩
    by_contra hnot
    exact Result.noConfusion ((if_neg hnot).symm.trans hfired)
  · rintro ⟨m, hm, hfired⟩
    exact ⟨_, exec_mbPendFire_valid now hm, if_pos hfired⟩

/-- The ids that fire are those of the valid slots whose timer is due, in the slots' order. -/
theorem sweep_pendFire_ids (cfg : Config) (now : Time) (r : Receiver) :
    (((r.sweep (fun i m => m.pendFire cfg now i) allIds).2.filter fun p => p.2).map fun p => p.1) =
      (r.validSlots.filter fun p => (p.2.pendFire cfg now p.1).2.2).map Prod.fst := by
  rw [sweep_all_answers, List.filter_map, List.map_map]
  rfl

/-- Mapping the elements that pass a test is one element per pass and none per failure. -/
theorem map_filter_eq_flatMap {α β : Type} (p : α → Bool) (g : α → β) (l : List α) :
    (l.filter p).map g = l.flatMap fun a => if p a then [g a] else [] := by
  induction l with
  | nil => rfl
  | cons a l ih =>
    rw [List.filter_cons, List.flatMap_cons, ← ih]
    cases p a <;> rfl

/-- Settles O39: servicing the timers sweeps the look of `MB_PEND_FIRE` over the valid slots. -/
theorem timersFireDueMailboxes : Obligations.TimersFireDueMailboxes := by
  intro now s
  have hids := sweep_pendFire_ids s.cfg now s.rx
  refine ⟨_, _, exec_regTimers now s, rfl, fun i hfree => ?_, fun i m u hm hu => ?_, ?_, fun i => ?_, ?_,
    recompute_globalOk _, ?_⟩
  · exact sweep_all_slot?_invalid _ hfree
  · rw [exec_mbPendFire_valid now hm] at hu
    cases hu
    exact sweep_all_slot?_visit _ hm _
  · rw [hids]
    exact List.pairwise_map.2 ((validSlots_ascending s.rx).filter _)
  · rw [hids, exec_mbPendFire_fired_iff]
    simp only [List.mem_map, List.mem_filter, Prod.exists, mem_validSlots]
    exact ⟨fun ⟨_, m, ⟨hm, hfired⟩, hi⟩ => ⟨m, hi ▸ hm, hi ▸ hfired⟩, fun ⟨m, hm, hfired⟩ => ⟨i, m, ⟨hm, hfired⟩, rfl⟩⟩
  · rw [Receiver.recompute_events, sweep_all_events, hids, List.map_map, map_filter_eq_flatMap]
    simp only [pendFire_events]
    rfl
  · simp only [sweep_recompute_frame]

/-! ### The load (R324, R325) -/

/-- The ids in order (R324): id `k + 1` stands at place `k`. -/
theorem allIds_getElem (k : Fin 15) (hk : k.val < allIds.length) : allIds[k.val] = .ofNat 4 (k.val + 1) := by
  revert k
  decide

theorem probe_id_ne_zero (k : Fin 15) : BitVec.ofNat 4 (k.val + 1) ≠ 0#4 := by
  revert k
  decide

/-- The probes of a load: each id 1 to 15 with the answer at its place. -/
theorem mem_probes (probe : Vector ProbeAnswer 15) (k : Fin 15) :
    (.ofNat 4 (k.val + 1), probe[k]) ∈ allIds.zip probe.toList := by
  have hlength : k.val < (allIds.zip probe.toList).length := by
    rw [List.length_zip, Vector.length_toList]
    exact k.isLt
  refine List.mem_iff_getElem.2 ⟨k.val, hlength, ?_⟩
  rw [List.getElem_zip, allIds_getElem, Vector.getElem_toList]
  rfl

theorem probes_ids (probe : Vector ProbeAnswer 15) : (allIds.zip probe.toList).map Prod.fst = allIds :=
  List.map_fst_zip (by rw [Vector.length_toList]; exact Nat.le_refl 15)

/-- The ids a load reports: those not valid whose answer it takes as malformed (R324, R325), in the order of its list. -/
def Receiver.malformedIds (n : Nat) (l : List (MailboxId × ProbeAnswer)) (r : Receiver) : List MailboxId :=
  (l.filter fun p => decide (r.slot? p.1 = none) && decide (p.2.checked n = .malformed)).map Prod.fst

/-- A load reports its malformed ids, in order, and appends no other event. -/
theorem loadAll_events_malformedIds (n : Nat) (l : List (MailboxId × ProbeAnswer)) (hn : (l.map Prod.fst).Nodup)
    (r : Receiver) :
    (r.loadAll n l).1.events = r.events ++ (r.malformedIds n l).map fun i => .condition (.badRecord i) := by
  rw [(loadAll_results n l hn r).2, Receiver.malformedIds, List.map_map]
  rfl

/-- What a load lists and what it reports keep the order of its list. -/
theorem loadAll_ids_sublist (n : Nat) (l : List (MailboxId × ProbeAnswer)) (hn : (l.map Prod.fst).Nodup) (r : Receiver) :
    (r.loadAll n l).2.Sublist (l.map Prod.fst) := by
  rw [(loadAll_results n l hn r).1]
  exact List.filter_sublist.map _

theorem malformedIds_sublist (n : Nat) (l : List (MailboxId × ProbeAnswer)) (r : Receiver) :
    (r.malformedIds n l).Sublist (l.map Prod.fst) := List.filter_sublist.map _

theorem not_mem_malformedIds_of_valid {r : Receiver} {i : MailboxId} {m : Slot} (n : Nat)
    (l : List (MailboxId × ProbeAnswer)) (hm : r.slot? i = some m) : i ∉ r.malformedIds n l := by
  simp [Receiver.malformedIds, hm]

/-- Where an id has one answer, that answer decides whether the id is reported. -/
theorem mem_malformedIds_iff {n : Nat} {l : List (MailboxId × ProbeAnswer)} (hn : (l.map Prod.fst).Nodup) {r : Receiver}
    {i : MailboxId} {a : ProbeAnswer} (ha : (i, a) ∈ l) (hfree : r.slot? i = none) :
    i ∈ r.malformedIds n l ↔ a.checked n = .malformed := by
  simp only [Receiver.malformedIds, List.mem_map, List.mem_filter, Bool.and_eq_true, decide_eq_true_eq]
  constructor
  · rintro ⟨p, ⟨hp, _, hbad⟩, hi⟩
    rwa [List.inj_on_of_nodup_map hn hp ha hi] at hbad
  · exact fun hbad => ⟨(i, a), ⟨ha, hfree, hbad⟩, rfl⟩

/-- Settles O41: the ids loaded and the ids reported are parts of the ascending list of probes, and each answer's effect is
`loadAll_slot?_of_mem`. -/
theorem loadRule : Obligations.LoadRule := by
  intro probe s
  have hids := probes_ids probe
  have hnodup : ((allIds.zip probe.toList).map Prod.fst).Nodup := by
    rw [hids]
    exact nodup_allIds
  have hloaded := loadAll_ids_sublist s.cfg.labelMax _ hnodup s.rx
  have hbad := malformedIds_sublist s.cfg.labelMax (allIds.zip probe.toList) s.rx
  rw [hids] at hloaded hbad
  have hzero : (0#4 : MailboxId) ∉ allIds := by decide
  refine ⟨_, _, s.rx.malformedIds s.cfg.labelMax (allIds.zip probe.toList), exec_regLoad probe s, rfl,
    recompute_globalOk _, allIds_ascending.sublist hloaded, allIds_ascending.sublist hbad, fun h => hzero (hloaded.subset h),
    fun h => hzero (hbad.subset h), loadAll_events_malformedIds _ _ hnodup s.rx, fun i m hm => ?_,
    fun k i hi hfree => ?_, ?_⟩
  · refine ⟨loadAll_slot?_valid _ _ _ hm, fun hmem => ?_, not_mem_malformedIds_of_valid _ _ hm⟩
    obtain ⟨hfree, _⟩ := loadAll_ids _ _ _ hmem
    rw [hm] at hfree
    cases hfree
  · subst hi
    have hmem := mem_probes probe k
    have heffect := loadAll_slot?_of_mem s.cfg.labelMax _ hnodup s.rx hmem (probe_id_ne_zero k) hfree
    have hreported := mem_malformedIds_iff (n := s.cfg.labelMax) hnodup hmem hfree
    cases hprobe : probe[k] with
    | noRecord =>
      simp only [hprobe, ProbeAnswer.checked] at heffect hreported
      obtain ⟨hslot, hout⟩ := heffect
      exact ⟨hslot, hout, mt hreported.1 nofun⟩
    | malformed =>
      simp only [hprobe, ProbeAnswer.checked] at heffect hreported
      obtain ⟨hslot, hout, _⟩ := heffect
      exact ⟨hslot, hout, hreported.2 trivial⟩
    | record label lastSeen battery =>
      simp only
      split
      · rename_i hfits
        simp only [hprobe, ProbeAnswer.checked, if_pos hfits] at heffect hreported
        obtain ⟨hin, d, hslot⟩ := heffect
        exact ⟨hin, mt hreported.1 nofun, Config.freePendT0 d, hslot⟩
      · rename_i hlong
        simp only [hprobe, ProbeAnswer.checked, if_neg hlong] at heffect hreported
        obtain ⟨hslot, hout, _⟩ := heffect
        exact ⟨hslot, hout, hreported.2 trivial⟩
  · simp only [Receiver.recompute]
    rw [loadAll_frame]

end Sys2Proof.Machine
end

section
/-! PROOFS. Conditions and exceptions (60_exceptions.md): what the store's answer to a record write or removal decides (R349), and
that no step faults or changes the configuration (R356, R79) and a pure read changes only the result (R113). -/

namespace Sys2Proof.Machine

/-! ### What no step does (R356, R79, R113) -/

/-- The environment's other inputs leave the configuration (R79). -/
@[simp] theorem State.input_cfg (s : State) (input : Input) : (s.input input).cfg = s.cfg := by
  cases input <;> rfl

theorem step_cfg {s t : State} (h : step s = .next t) : t.cfg = s.cfg := by
  obtain ⟨_, ⟨_, rfl⟩ | ⟨r, rest, i, _, _, hdone⟩ | ⟨input, rest, _, _, rfl⟩⟩ := step_cases h
  · rfl
  · obtain ⟨u, hu, hend⟩ := completed_next hdone
    have hcfg : u.cfg = s.cfg := by rw [exec_frame hu]
    obtain ⟨_, rfl⟩ | ⟨_, rfl⟩ := hend <;> exact hcfg
  · exact State.input_cfg { s with pending := rest } input

/-- Nothing is fatal (R356). -/
theorem step_next_or_refused (s : State) : (∃ t, step s = .next t) ∨ ∃ c, step s = .refused c := by
  cases step s with
  | next t => exact .inl ⟨t, rfl⟩
  | fault r => cases r
  | refused c => exact .inr ⟨c, rfl⟩

theorem exec_pureRead_frame {i : Instr} {s t : State} (hpure : pureRead i = true) (h : exec i s = .next t) :
    t = { s with result := t.result } := by
  cases i with
  | codecEncode f => cases h; rfl
  | codecDecode F => cases h; rfl
  | checksum F => cases h; rfl
  | checksumOk F => cases h; rfl
  | versionOk F => cases h; rfl
  | nextSeq c => cases h; rfl
  | getf F name => cases h; rfl
  | setf F v => cases h; rfl
  | msgAvail => cases h; rfl
  | mbReliability k =>
    obtain ⟨m, _, hm⟩ := onSlot_next h
    cases hm
    rfl
  | regEnum => cases h; rfl
  | _ => cases hpure

/-- Settles O59: there is no fault to stop with, and what an operation may change is `exec_frame`. -/
theorem nothingFaultsConfigurationConstant : Obligations.NothingFaultsConfigurationConstant :=
  ⟨fun s => (step_next_or_refused s).imp_left fun ⟨t, ht⟩ => ⟨t, ht, step_cfg ht⟩, fun _ _ _ => exec_pureRead_frame⟩

/-! ### A write that the store fails (R349) -/

/-- A failed write or removal is one that succeeds, with the condition after it. -/
theorem persist_fails (e : Event) (id : MailboxId) (r : Receiver) :
    r.persist e id true = (r.persist e id false).raise (.persistFail id) := by
  simp only [Receiver.persist, Receiver.emitAll, Receiver.raise, Receiver.emit, persistEvents, if_true, Bool.false_eq_true,
    if_false, List.append_assoc, List.cons_append, List.nil_append]

theorem applyFrame_fails (cfg : Config) (f : Fields) (now : Time) (wall : Wall) (m : Slot) (r : Receiver) :
    r.applyFrame cfg f now wall true m = (r.applyFrame cfg f now wall false m).raise (.persistFail f.id) :=
  persist_fails _ _ _

theorem register_fails (id : MailboxId) (r : Receiver) :
    r.register id true = (r.register id false).raise (.persistFail id) := persist_fails _ _ _

/-- The global alarm does not depend on what is raised. -/
theorem recompute_raise (c : Condition) (r : Receiver) : (r.raise c).recompute = r.recompute.raise c := rfl

theorem exec_mbApply_fails {f : Fields} {now : Time} {wall : Wall} {s t : State}
    (h : exec (.mbApply f now wall false) s = .next t) :
    exec (.mbApply f now wall true) s = .next { t with rx := t.rx.raise (.persistFail f.id) } := by
  obtain ⟨m, hm, hk⟩ := onSlot_next h
  cases hk
  rw [exec_mbApply_valid now wall true hm, applyFrame_fails]

theorem exec_regLookupOrCreate_fails {id : MailboxId} {s t : State} (hid : id ≠ 0#4)
    (h : exec (.regLookupOrCreate id false) s = .next t) (hcreated : t.result = .created) :
    exec (.regLookupOrCreate id true) s = .next { t with rx := t.rx.raise (.persistFail id) } := by
  cases hslot : s.rx.slot? id with
  | some m =>
    rw [exec_regLookupOrCreate_found false hslot] at h
    cases h
    cases hcreated
  | none =>
    rw [exec_regLookupOrCreate_created false hid hslot] at h
    cases h
    rw [exec_regLookupOrCreate_created true hid hslot, register_fails, recompute_raise]

theorem exec_regDelete_fails {id : MailboxId} {s t : State} (h : exec (.regDelete id false) s = .next t)
    (hdeleted : t.result = .deleted) :
    exec (.regDelete id true) s = .next { t with rx := t.rx.raise (.persistFail id) } := by
  cases hslot : s.rx.slot? id with
  | none =>
    rw [exec_regDelete_invalid false hslot] at h
    cases h
    cases hdeleted
  | some m =>
    rw [exec_regDelete_valid false hslot] at h
    cases h
    rw [exec_regDelete_valid true hslot, persist_fails, recompute_raise]

/-! ### A dispatch, whose creation and application each write a record (R349, R314) -/

/-- The store's answer to an application's write is seen in the events only. -/
theorem applyFrame_of_any_answer (cfg : Config) (f : Fields) (now : Time) (wall : Wall) (fails : Bool) (m : Slot) (r : Receiver) :
    r.applyFrame cfg f now wall fails m =
      { r.applyFrame cfg f now wall false m with
        events := r.events ++ m.frameEvents cfg f ++ persistEvents (.persistWrite f.id m.label wall f.battery) f.id fails } := by
  rw [← Receiver.applyFrame_events]
  rfl

/-- The store's answer to a creation's write is seen in the events only. -/
theorem register_of_any_answer (id : MailboxId) (fails : Bool) (r : Receiver) :
    r.register id fails =
      { r.register id false with events := r.events ++ persistEvents (.persistWrite id [] none battUnknown) id fails } := by
  rw [← Receiver.register_events]
  rfl

/-- A dispatch to a mailbox: one receiver and one result whatever the store answers, with what it answered in the events. -/
theorem dispatch_of_any_answer {f : Fields} (hid : f.id ≠ 0#4) (cfg : Config) (now : Time) (wall : Wall) (r : Receiver) :
    ∃ (r' : Receiver) (res : Result) (between : List Event), ∀ createFails applyFails : Bool,
      r.dispatch cfg f ⟨now, wall, createFails, applyFails⟩ =
        ({ r' with events := r.events ++
             (if r.slot? f.id = none then persistEvents (.persistWrite f.id [] none 127#7) f.id createFails else []) ++ between ++
             persistEvents (.persistWrite f.id ((r.slot? f.id).elim [] Slot.label) wall f.battery) f.id applyFails }, res) := by
  cases hslot : r.slot? f.id with
  | some m =>
    refine ⟨(r.applyFrame cfg f now wall false m).recompute, .dispatched false (m.applyResult cfg f),
      m.frameEvents cfg f, fun createFails applyFails => ?_⟩
    rw [dispatch_registered _ hslot, applyFrame_of_any_answer, if_neg (Option.some_ne_none m), List.append_nil]
    rfl
  | none =>
    refine ⟨((r.register f.id false).applyFrame cfg f now wall false r.freshSlot).recompute,
      .dispatched true (r.freshSlot.applyResult cfg f), r.freshSlot.frameEvents cfg f, fun createFails applyFails => ?_⟩
    rw [dispatch_unregistered _ hid hslot, applyFrame_of_any_answer, Receiver.register_events,
      register_of_any_answer f.id createFails, applyFrame_with_events, if_pos rfl]
    rfl

/-- R349 for `REG_DISPATCH`: an id that is 0 is rejected with nothing written. -/
theorem storeAnswersOnlyEmit_regDispatch (f : Fields) (s : State) :
    StoreAnswersOnlyEmit (.regDispatch f) f.id f.battery (f.id ≠ 0#4) s := by
  refine ⟨fun hid now wall => ?_, fun hid e e' => ?_⟩
  · obtain ⟨r', res, between, hdispatch⟩ := dispatch_of_any_answer hid s.cfg now wall s.rx
    refine ⟨{ s with rx := r', result := res }, between, fun createFails applyFails => ?_⟩
    rw [exec_regDispatch, hdispatch]
  · have hzero : f.id = 0#4 := not_not.1 hid
    simp only [exec_regDispatch, Receiver.dispatch, if_pos hzero]

/-- R349 for a frame word of any class: an accepted frame is a dispatch, any other is discarded with nothing written. -/
theorem storeAnswersOnlyEmit_decodeFrame (b : FrameBits) (s : State) :
    StoreAnswersOnlyEmit (decodeFrame b) b.id b.battery (b.id ≠ 0#4 ∧ Accepted s.cfg b.toFrame) s := by
  obtain ⟨hgoes, hrejected⟩ := storeAnswersOnlyEmit_regDispatch b.fields s
  have haccepted (hF : Accepted s.cfg b.toFrame) (e : DispatchEnv) :
      exec (decodeFrame b e) s = exec (.regDispatch b.fields e) s := by
    have hdispatch := exec_decodeFrame_accepted e hF
    rwa [bits_toFrame, FrameBits.fields_toFrame] at hdispatch
  refine ⟨fun ⟨hid, hF⟩ now wall => ?_, fun hstays e e' => ?_⟩
  · simp only [haccepted hF]
    exact hgoes hid now wall
  · by_cases hF : Accepted s.cfg b.toFrame
    · rw [haccepted hF, haccepted hF]
      exact hrejected (fun hid => hstays ⟨hid, hF⟩) e e'
    · have hdiscarded (e : DispatchEnv) : exec (decodeFrame b e) s = s.frameArrives b.toFrame e := by
        rw [← exec_decodeFrame, bits_toFrame]
      simp only [hdiscarded, State.frameArrives, frameRejection_of_not_accepted hF]

/-- Settles O58: an operation with one write raises the condition at its end; the frame classes are `decodeFrame` of their bits. -/
theorem storeFailureOnlyEmits : Obligations.StoreFailureOnlyEmits := fun s =>
  ⟨fun _ _ _ _ => exec_mbApply_fails, fun _ _ => exec_regLookupOrCreate_fails, fun _ _ => exec_regDelete_fails,
    fun f => storeAnswersOnlyEmit_regDispatch f s, fun o door => storeAnswersOnlyEmit_decodeFrame (o.bits true door) s,
    fun o => storeAnswersOnlyEmit_decodeFrame (o.bits false true) s,
    fun o => storeAnswersOnlyEmit_decodeFrame (o.bits false false) s⟩

end Sys2Proof.Machine
end

section
/-! PROOFS. The values at reset (70_reset_and_hazards.md R381, R383). -/

namespace Sys2Proof.Machine

/-- Settles O51: each register is what `Receiver.reset` and `Sensor.reset` put there, and an empty slot file has no valid slot. -/
theorem resetValues : Obligations.ResetValues := by
  have hslots : ∀ i, State.reset.rx.slot? i = none := slot?_of_empty rfl
  exact ⟨rfl, rfl, rfl, rfl, hslots, rfl, rfl, rfl, rfl, rfl, rfl, rfl, rfl, rfl⟩

end Sys2Proof.Machine
end
